-- ==== Sys2Proof/Word.lean ====
section
/-! DEFINITION. The bit strings of the CHIP-8 block and their names (R5, R6, R12). -/

namespace Sys2Proof

/-- One memory cell, one V register, one timer: 8 bits, unsigned (R5, R6, R20). -/
abbrev Byte := BitVec 8

/-- An instruction word, the address register, the program counter, a stack entry: 16 bits (R5). -/
abbrev Word := BitVec 16

/-- "a 4-bit half-byte; instruction fields are named by nibble position" (R12): a register number, a
key number, a sprite row count. -/
abbrev Nibble := BitVec 4

/-- The 12-bit address field `nnn` of an instruction word (R71). -/
abbrev Addr := BitVec 12

/-- `V[15]`, the flag register VF (R21). -/
def VF : Nibble := 15

end Sys2Proof
end

