-- ==== Sys2Proof/Syntax.lean ====
section
/-! DEFINITION. The 34 instructions of the opcode map (R2, R75), one constructor a row, in the map's order.

A constructor carries EVERY field bit its row leaves open, the ignored ones too (`ign`; R74, R76, R83): the
fault record of a return holds the whole instruction word (R201), so no bit may be lost in decoding. The
types bound each field: a register number, a key number and a row count are nibbles, `kk` is a byte, `nnn`
has 12 bits (R71, R73). -/

namespace Sys2Proof

inductive Instr where
  | cls (ign : Nibble)                  -- 0?E0  clear-screen         R100
  | ret (ign : Nibble)                  -- 0?EE  return               R110
  | jp (nnn : Addr)                     -- 1nnn  jump                 R111
  | call (nnn : Addr)                   -- 2nnn  call                 R112
  | seImm (x : Nibble) (kk : Byte)      -- 3xkk  skip-eq-imm          R113
  | sneImm (x : Nibble) (kk : Byte)     -- 4xkk  skip-neq-imm         R114
  | seReg (x y ign : Nibble)            -- 5xyn  skip-eq-reg          R115
  | ldImm (x : Nibble) (kk : Byte)      -- 6xkk  load-imm             R121
  | addImm (x : Nibble) (kk : Byte)     -- 7xkk  add-imm              R122
  | ldReg (x y : Nibble)                -- 8xy0  load-reg             R123
  | orReg (x y : Nibble)                -- 8xy1  or                   R124
  | andReg (x y : Nibble)               -- 8xy2  and                  R125
  | xorReg (x y : Nibble)               -- 8xy3  xor                  R126
  | addReg (x y : Nibble)               -- 8xy4  add-reg              R127
  | subReg (x y : Nibble)               -- 8xy5  sub-reg              R128
  | shr (x ign : Nibble)                -- 8xy6  shift-right          R129
  | subnReg (x y : Nibble)              -- 8xy7  subn-reg             R130
  | shl (x ign : Nibble)                -- 8xyE  shift-left           R131
  | sneReg (x y ign : Nibble)           -- 9xyn  skip-neq-reg         R116
  | ldI (nnn : Addr)                    -- Annn  load-addr            R140
  | jpV0 (nnn : Addr)                   -- Bnnn  jump-add             R117
  | rnd (x : Nibble) (kk : Byte)        -- Cxkk  random               R132
  | drw (x y n : Nibble)                -- Dxyn  draw                 R101
  | skp (x : Nibble)                    -- Ex9E  skip-if-key-down     R160
  | sknp (x : Nibble)                   -- ExA1  skip-if-key-up       R161
  | ldVxDT (x : Nibble)                 -- Fx07  load-delay-to-reg    R162
  | ldVxK (x : Nibble)                  -- Fx0A  load-key-blocking    R163
  | ldDTVx (x : Nibble)                 -- Fx15  load-delay-from-reg  R165
  | ldSTVx (x : Nibble)                 -- Fx18  load-sound-from-reg  R166
  | addI (x : Nibble)                   -- Fx1E  add-to-addr          R141
  | ldF (x : Nibble)                    -- Fx29  load-font-addr       R142
  | ldB (x : Nibble)                    -- Fx33  store-bcd            R143
  | stRegs (x : Nibble)                 -- Fx55  store-regs           R144
  | ldRegs (x : Nibble)                 -- Fx65  load-regs            R145
  deriving DecidableEq, Repr

end Sys2Proof
end

