-- ==== Sys2Proof/WellFormed.lean ====
section
/-! DEFINITION. Which instruction terms are the ones the assembler spelling of R79 writes.

Every field's RANGE holds by its type (R71). What is left to check is the ignored fields: the canonical words
are `00E0` and `00EE` (R75), 5xyn and 9xyn are spelled `SE Vx, Vy` and `SNE Vx, Vy` with no n (R76), and SHR
and SHL take one register (R79). A term whose ignored field is not zero is an instruction the machine decodes
and runs like any other (R83): well-formedness is about spelling, never about what `step` accepts. -/

namespace Sys2Proof

/-- The ignored fields set to zero, everything else kept (R75, R76, R79, R83). -/
def Instr.canonical : Instr → Instr
  | .cls _ => .cls 0
  | .ret _ => .ret 0
  | .seReg x y _ => .seReg x y 0
  | .sneReg x y _ => .sneReg x y 0
  | .shr x _ => .shr x 0
  | .shl x _ => .shl x 0
  | .jp nnn => .jp nnn
  | .call nnn => .call nnn
  | .seImm x kk => .seImm x kk
  | .sneImm x kk => .sneImm x kk
  | .ldImm x kk => .ldImm x kk
  | .addImm x kk => .addImm x kk
  | .ldReg x y => .ldReg x y
  | .orReg x y => .orReg x y
  | .andReg x y => .andReg x y
  | .xorReg x y => .xorReg x y
  | .addReg x y => .addReg x y
  | .subReg x y => .subReg x y
  | .subnReg x y => .subnReg x y
  | .ldI nnn => .ldI nnn
  | .jpV0 nnn => .jpV0 nnn
  | .rnd x kk => .rnd x kk
  | .drw x y n => .drw x y n
  | .skp x => .skp x
  | .sknp x => .sknp x
  | .ldVxDT x => .ldVxDT x
  | .ldVxK x => .ldVxK x
  | .ldDTVx x => .ldDTVx x
  | .ldSTVx x => .ldSTVx x
  | .addI x => .addI x
  | .ldF x => .ldF x
  | .ldB x => .ldB x
  | .stRegs x => .stRegs x
  | .ldRegs x => .ldRegs x

/-- The term is in the assembler's spelling: its ignored fields are zero (R75, R79). -/
def Instr.wellFormed (i : Instr) : Bool := decide (i = i.canonical)

end Sys2Proof
end

