-- ==== Sys2Proof/Decode.lean ====
section
/-! DEFINITION. The six fields (R71), the dispatch (R74 to R78), and the encoder of the opcode map (R72, R75). -/

namespace Sys2Proof

/-! ## Bytes and words -/

/-- The big-endian word of two bytes, the lower address first (R57). -/
def wordOfBytes (hi lo : Byte) : Word := hi ++ lo

/-- The byte a big-endian word keeps at the lower address (R57). -/
def Word.hi (w : Word) : Byte := w.extractLsb' 8 8

/-- The byte a big-endian word keeps at the higher address (R57). -/
def Word.lo (w : Word) : Byte := w.extractLsb' 0 8

/-! ## The fields of a word (R71) -/

/-- The class, `w[15:12]`. -/
def Word.opClass (w : Word) : Nibble := w.extractLsb' 12 4

/-- `x`, `w[11:8]`. -/
def Word.x (w : Word) : Nibble := w.extractLsb' 8 4

/-- `y`, `w[7:4]`. -/
def Word.y (w : Word) : Nibble := w.extractLsb' 4 4

/-- `n`, `w[3:0]`. -/
def Word.n (w : Word) : Nibble := w.extractLsb' 0 4

/-- `nnn`, `w[11:0]`. -/
def Word.nnn (w : Word) : Addr := w.extractLsb' 0 12

/-- `kk`, `w[7:0]`. -/
def Word.kk (w : Word) : Byte := w.extractLsb' 0 8

/-! ## Dispatch -/

/-- What the decoder answers: an instruction, or the name of the reason there is none. -/
inductive Decoded where
  | instr (i : Instr)
  | unknownOpcode (w : Word)        -- a word that matches no row of the map (R77)
  | truncated (bytes : List Byte)   -- fewer than the two bytes of an instruction (R70)
  deriving DecidableEq, Repr

/-- Class 0x0 dispatches on the low byte; bits 11:8 are not examined (R74). -/
def decodeClass0 (w : Word) : Decoded :=
  match w.kk with
  | 0xE0#8 => .instr (.cls w.x)
  | 0xEE#8 => .instr (.ret w.x)
  | _ => .unknownOpcode w

/-- Class 0x8 dispatches on the low nibble (R74). -/
def decodeClass8 (w : Word) : Decoded :=
  match w.n with
  | 0x0#4 => .instr (.ldReg w.x w.y)
  | 0x1#4 => .instr (.orReg w.x w.y)
  | 0x2#4 => .instr (.andReg w.x w.y)
  | 0x3#4 => .instr (.xorReg w.x w.y)
  | 0x4#4 => .instr (.addReg w.x w.y)
  | 0x5#4 => .instr (.subReg w.x w.y)
  | 0x6#4 => .instr (.shr w.x w.y)
  | 0x7#4 => .instr (.subnReg w.x w.y)
  | 0xE#4 => .instr (.shl w.x w.y)
  | _ => .unknownOpcode w

/-- Class 0xE dispatches on the low byte (R74). -/
def decodeClassE (w : Word) : Decoded :=
  match w.kk with
  | 0x9E#8 => .instr (.skp w.x)
  | 0xA1#8 => .instr (.sknp w.x)
  | _ => .unknownOpcode w

/-- Class 0xF dispatches on the low byte (R74). -/
def decodeClassF (w : Word) : Decoded :=
  match w.kk with
  | 0x07#8 => .instr (.ldVxDT w.x)
  | 0x0A#8 => .instr (.ldVxK w.x)
  | 0x15#8 => .instr (.ldDTVx w.x)
  | 0x18#8 => .instr (.ldSTVx w.x)
  | 0x1E#8 => .instr (.addI w.x)
  | 0x29#8 => .instr (.ldF w.x)
  | 0x33#8 => .instr (.ldB w.x)
  | 0x55#8 => .instr (.stRegs w.x)
  | 0x65#8 => .instr (.ldRegs w.x)
  | _ => .unknownOpcode w

/-- The decoder on a word: first the high nibble, then, in the four ambiguous classes, the second
discriminant (R74, R76). -/
def decodeWord (w : Word) : Decoded :=
  match w.opClass with
  | 0x0#4 => decodeClass0 w
  | 0x1#4 => .instr (.jp w.nnn)
  | 0x2#4 => .instr (.call w.nnn)
  | 0x3#4 => .instr (.seImm w.x w.kk)
  | 0x4#4 => .instr (.sneImm w.x w.kk)
  | 0x5#4 => .instr (.seReg w.x w.y w.n)
  | 0x6#4 => .instr (.ldImm w.x w.kk)
  | 0x7#4 => .instr (.addImm w.x w.kk)
  | 0x8#4 => decodeClass8 w
  | 0x9#4 => .instr (.sneReg w.x w.y w.n)
  | 0xA#4 => .instr (.ldI w.nnn)
  | 0xB#4 => .instr (.jpV0 w.nnn)
  | 0xC#4 => .instr (.rnd w.x w.kk)
  | 0xD#4 => .instr (.drw w.x w.y w.n)
  | 0xE#4 => decodeClassE w
  | _ => decodeClassF w

/-- The decoder on bytes: one big-endian word (R57, R70), and the bytes after it. -/
def decode : List Byte → Decoded × List Byte
  | hi :: lo :: rest => (decodeWord (wordOfBytes hi lo), rest)
  | bytes => (.truncated bytes, [])

/-- The instruction of a decoder's answer, if it is one. -/
def Decoded.toOption : Decoded → Option Instr
  | .instr i => some i
  | .unknownOpcode _ => none
  | .truncated _ => none

/-! ## The encoder (R72, R75) -/

/-- Format NNN: class, then a 12-bit address. -/
def encNNN (op : Nibble) (nnn : Addr) : Word := op ++ nnn

/-- Formats XKK and XSS: class, x, then a byte (an immediate, or the second discriminant). -/
def encXKK (op x : Nibble) (kk : Byte) : Word := (op ++ x : BitVec 8) ++ kk

/-- Formats XYN and XYS: class, x, y, then a nibble (a count, or the second discriminant). -/
def encXYN (op x y n : Nibble) : Word := (op ++ x : BitVec 8) ++ (y ++ n : BitVec 8)

/-- The word of an instruction, row by row of the opcode map (R75). -/
def encode : Instr → Word
  | .cls ign => encXKK 0x0 ign 0xE0
  | .ret ign => encXKK 0x0 ign 0xEE
  | .jp nnn => encNNN 0x1 nnn
  | .call nnn => encNNN 0x2 nnn
  | .seImm x kk => encXKK 0x3 x kk
  | .sneImm x kk => encXKK 0x4 x kk
  | .seReg x y ign => encXYN 0x5 x y ign
  | .ldImm x kk => encXKK 0x6 x kk
  | .addImm x kk => encXKK 0x7 x kk
  | .ldReg x y => encXYN 0x8 x y 0x0
  | .orReg x y => encXYN 0x8 x y 0x1
  | .andReg x y => encXYN 0x8 x y 0x2
  | .xorReg x y => encXYN 0x8 x y 0x3
  | .addReg x y => encXYN 0x8 x y 0x4
  | .subReg x y => encXYN 0x8 x y 0x5
  | .shr x ign => encXYN 0x8 x ign 0x6
  | .subnReg x y => encXYN 0x8 x y 0x7
  | .shl x ign => encXYN 0x8 x ign 0xE
  | .sneReg x y ign => encXYN 0x9 x y ign
  | .ldI nnn => encNNN 0xA nnn
  | .jpV0 nnn => encNNN 0xB nnn
  | .rnd x kk => encXKK 0xC x kk
  | .drw x y n => encXYN 0xD x y n
  | .skp x => encXKK 0xE x 0x9E
  | .sknp x => encXKK 0xE x 0xA1
  | .ldVxDT x => encXKK 0xF x 0x07
  | .ldVxK x => encXKK 0xF x 0x0A
  | .ldDTVx x => encXKK 0xF x 0x15
  | .ldSTVx x => encXKK 0xF x 0x18
  | .addI x => encXKK 0xF x 0x1E
  | .ldF x => encXKK 0xF x 0x29
  | .ldB x => encXKK 0xF x 0x33
  | .stRegs x => encXKK 0xF x 0x55
  | .ldRegs x => encXKK 0xF x 0x65

/-- The two bytes of an instruction as memory holds them (R57). -/
def encodeBytes (i : Instr) : List Byte := [(encode i).hi, (encode i).lo]

/-! ## The opcode map (R75) -/

/-- One row of the opcode map: the row applies to `w` when `w & mask = bits`. The mnemonic is spelled as the
machine-readable copy of the map spells it (R79). -/
structure OpcodeRow where
  mask : Word
  bits : Word
  mnemonic : String
  deriving DecidableEq, Repr

/-- The 34 rows, in the map's order. -/
def opcodeMap : List OpcodeRow :=
  [⟨0xF0FF, 0x00E0, "CLS"⟩,
   ⟨0xF0FF, 0x00EE, "RET"⟩,
   ⟨0xF000, 0x1000, "JP_nnn"⟩,
   ⟨0xF000, 0x2000, "CALL_nnn"⟩,
   ⟨0xF000, 0x3000, "SE_Vx__kk"⟩,
   ⟨0xF000, 0x4000, "SNE_Vx__kk"⟩,
   ⟨0xF000, 0x5000, "SE_Vx__Vy"⟩,
   ⟨0xF000, 0x6000, "LD_Vx__kk"⟩,
   ⟨0xF000, 0x7000, "ADD_Vx__kk"⟩] ++
  [⟨0xF00F, 0x8000, "LD_Vx__Vy"⟩,
   ⟨0xF00F, 0x8001, "OR_Vx__Vy"⟩,
   ⟨0xF00F, 0x8002, "AND_Vx__Vy"⟩,
   ⟨0xF00F, 0x8003, "XOR_Vx__Vy"⟩,
   ⟨0xF00F, 0x8004, "ADD_Vx__Vy"⟩,
   ⟨0xF00F, 0x8005, "SUB_Vx__Vy"⟩,
   ⟨0xF00F, 0x8006, "SHR_Vx"⟩,
   ⟨0xF00F, 0x8007, "SUBN_Vx__Vy"⟩,
   ⟨0xF00F, 0x800E, "SHL_Vx"⟩] ++
  [⟨0xF000, 0x9000, "SNE_Vx__Vy"⟩,
   ⟨0xF000, 0xA000, "LD_I__nnn"⟩,
   ⟨0xF000, 0xB000, "JP_V0__nnn"⟩,
   ⟨0xF000, 0xC000, "RND_Vx__kk"⟩,
   ⟨0xF000, 0xD000, "DRW_Vx__Vy__n"⟩,
   ⟨0xF0FF, 0xE09E, "SKP_Vx"⟩,
   ⟨0xF0FF, 0xE0A1, "SKNP_Vx"⟩,
   ⟨0xF0FF, 0xF007, "LD_Vx__DT"⟩,
   ⟨0xF0FF, 0xF00A, "LD_Vx__K"⟩] ++
  [⟨0xF0FF, 0xF015, "LD_DT__Vx"⟩,
   ⟨0xF0FF, 0xF018, "LD_ST__Vx"⟩,
   ⟨0xF0FF, 0xF01E, "ADD_I__Vx"⟩,
   ⟨0xF0FF, 0xF029, "LD_F__Vx"⟩,
   ⟨0xF0FF, 0xF033, "LD_B__Vx"⟩,
   ⟨0xF0FF, 0xF055, "LD__I___Vx"⟩,
   ⟨0xF0FF, 0xF065, "LD_Vx___I"⟩]

/-- The mnemonic of an instruction's row. -/
def Instr.mnemonic : Instr → String
  | .cls _ => "CLS"
  | .ret _ => "RET"
  | .jp _ => "JP_nnn"
  | .call _ => "CALL_nnn"
  | .seImm _ _ => "SE_Vx__kk"
  | .sneImm _ _ => "SNE_Vx__kk"
  | .seReg _ _ _ => "SE_Vx__Vy"
  | .ldImm _ _ => "LD_Vx__kk"
  | .addImm _ _ => "ADD_Vx__kk"
  | .ldReg _ _ => "LD_Vx__Vy"
  | .orReg _ _ => "OR_Vx__Vy"
  | .andReg _ _ => "AND_Vx__Vy"
  | .xorReg _ _ => "XOR_Vx__Vy"
  | .addReg _ _ => "ADD_Vx__Vy"
  | .subReg _ _ => "SUB_Vx__Vy"
  | .shr _ _ => "SHR_Vx"
  | .subnReg _ _ => "SUBN_Vx__Vy"
  | .shl _ _ => "SHL_Vx"
  | .sneReg _ _ _ => "SNE_Vx__Vy"
  | .ldI _ => "LD_I__nnn"
  | .jpV0 _ => "JP_V0__nnn"
  | .rnd _ _ => "RND_Vx__kk"
  | .drw _ _ _ => "DRW_Vx__Vy__n"
  | .skp _ => "SKP_Vx"
  | .sknp _ => "SKNP_Vx"
  | .ldVxDT _ => "LD_Vx__DT"
  | .ldVxK _ => "LD_Vx__K"
  | .ldDTVx _ => "LD_DT__Vx"
  | .ldSTVx _ => "LD_ST__Vx"
  | .addI _ => "ADD_I__Vx"
  | .ldF _ => "LD_F__Vx"
  | .ldB _ => "LD_B__Vx"
  | .stRegs _ => "LD__I___Vx"
  | .ldRegs _ => "LD_Vx___I"

/-! ## The host's decoding test -/

/-- The instruction the decoder reads from a table word of `nbits` bits, bit 0 the least significant bit
of the first (and only) 16-bit word; the word is laid out as memory holds it (R57) and its bytes are given
to `decode`. -/
def decodeTableWord (nbits w : Nat) : Option Instr :=
  let word : Word := BitVec.ofNat 16 (w % 2 ^ nbits)
  (decode [word.hi, word.lo]).1.toOption

end Sys2Proof
end

