-- ==== Sys2Proof/Config.lean ====
section
/-! DEFINITION. The parameters of the block (R5) and its one free input, the random source (R208). -/

namespace Sys2Proof.Config

/-- MEM_SIZE: addresses 0x000 to 0xFFF exist (R5, R50). -/
abbrev memSize : Nat := 4096

/-- PROGRAM_BASE, where a ROM is loaded and the first instruction is fetched (R5, R232). -/
abbrev programBase : Nat := 0x200

/-- ROM_MAX, the bytes from 0x200 to 0xFFF (R5; the spec's decision D26). -/
abbrev romMax : Nat := 3584

/-- FONT_BASE (R5, R51). -/
abbrev fontBase : Nat := 0x000

/-- FONT_GLYPH_BYTES (R5). -/
abbrev fontGlyphBytes : Nat := 5

/-- FONT_TABLE at its default (R52; the spec's decision D20), sixteen glyphs of five bytes, top row first.
The spec makes the table a parameter: `State.construct` takes it as an argument, and this default is the
one the reset state uses (assumption 1). -/
def fontTable : List Byte :=
  [0xF0, 0x90, 0x90, 0x90, 0xF0] ++
  [0x20, 0x60, 0x20, 0x20, 0x70] ++
  [0xF0, 0x10, 0xF0, 0x80, 0xF0] ++
  [0xF0, 0x10, 0xF0, 0x10, 0xF0] ++
  [0x90, 0x90, 0xF0, 0x10, 0x10] ++
  [0xF0, 0x80, 0xF0, 0x10, 0xF0] ++
  [0xF0, 0x80, 0xF0, 0x90, 0xF0] ++
  [0xF0, 0x10, 0x20, 0x40, 0x40] ++
  [0xF0, 0x90, 0xF0, 0x90, 0xF0] ++
  [0xF0, 0x90, 0xF0, 0x10, 0xF0] ++
  [0xF0, 0x90, 0xF0, 0x90, 0x90] ++
  [0xE0, 0x90, 0xE0, 0x90, 0xE0] ++
  [0xF0, 0x80, 0x80, 0x80, 0xF0] ++
  [0xE0, 0x90, 0x90, 0x90, 0xE0] ++
  [0xF0, 0x80, 0xF0, 0x80, 0xF0] ++
  [0xF0, 0x80, 0xF0, 0x80, 0x80]

/-- The random source: the value of the `k`-th draw, for the draws that `State.randomIn` does not
supply. It has no body: "a model admits every value 0 to 255 at every execution" (R208, U1; assumption 3). -/
opaque randomByte : Nat → Byte

end Sys2Proof.Config
end

