-- ==== Sys2Proof/Machine/State.lean ====
section
/-! DEFINITION. The state of the block (10_state.md), the reasons a step can stop, and the state after reset. -/

namespace Sys2Proof.Machine

/-- Memory: the listed cells, addresses strictly rising, no cell equal to what its address reads as when it
is not listed (`Memory.unlisted`, Machine/Ops.lean). The canonical form is `Memory.wf`. -/
abbrev Memory := List Host.Cell

/-- The framebuffer, "a 64×32 grid of single-bit pixels, row-major": 32 rows of 64 columns (R28). -/
abbrev Framebuffer := Vector (Vector Bool 64) 32

/-- The access a memory fault records (R54, R201). -/
inductive Access where
  | fetch | read | write
  deriving DecidableEq, Repr

/-- The four faults of the block with the info each records (R201, and no others). -/
inductive FaultInfo where
  | memOutOfBounds (addr : Nat) (access : Access)   -- code 1: the exact address, 4096 or more
  | stackOverflow                                    -- code 2
  | stackUnderflow                                   -- code 3
  | keyOutOfRange (value : Byte)                     -- code 4: the offending V[x]
  deriving DecidableEq, Repr

/-- The fault record (R31, R201): what happened, the address of the faulting instruction, and its word,
which a fetch fault has not. -/
structure FaultRecord where
  info : FaultInfo
  pc   : Word
  w    : Option Word
  deriving DecidableEq, Repr

/-- The engine's run state (R30). -/
inductive RunState where
  | idle
  | running
  | waitKey (x : Nibble)
  | stopped
  | faulted (f : FaultRecord)
  deriving DecidableEq, Repr

/-- Why a ROM load failed (R220, R231). -/
inductive LoadFailure where
  | unreadable | tooLarge
  deriving DecidableEq, Repr

/-- What the host hands to LoadRom (R231): the ROM's bytes, or a read failure. -/
inductive LoadResult where
  | readFailure
  | bytes (rom : List Byte)
  deriving DecidableEq, Repr

/-- The events the block emits (R205, R207, R202, R231, R220). -/
inductive Output where
  | repaint (fb : Framebuffer)            -- a copy of all 2048 pixels (R207)
  | unknownOpcode (pc w : Word)           -- the one non-fatal report (R205)
  | faultReport (f : FaultRecord)         -- R202
  | loadFailed (reason : LoadFailure)     -- R231
  deriving DecidableEq, Repr

/-- Whose step comes next (R212): the engine's, or a step of one of the agents around it. -/
inductive Turn where
  | engine                                   -- InstructionStep (R80)
  | tick                                     -- the timer driver (R206)
  | keyChange (k : Nibble) (down : Bool)     -- the input port (R209, R210)
  | loadRom (result : LoadResult)            -- the host (R231)
  | start                                    -- the host (R213)
  | stop                                     -- the host (R213)
  deriving DecidableEq, Repr

/-- The machine. The fields down to `romSize` are the spec's; `loaded` and `loadFailed` remember what its load and start
rules ask of the loads so far (assumptions 5, 13); `outputs` is the four event streams the host observes (R213), merged
into one in the order of emission; the last three are the model's own, and hold the inputs from outside the block: whose
turn comes next (U2, U3, U7) and the random draws (U1). -/
structure State where
  /-- V0 to VF (R20, R21). -/
  v : Vector Byte 16
  /-- The address register I (R22). -/
  i : Word
  /-- The program counter (R23). -/
  pc : Word
  /-- The number of used stack frames, 0 to 16 (R24). -/
  sp : Fin 17
  /-- The return-address stack (R25). -/
  stack : Vector Word 16
  /-- The delay timer (R26). -/
  dt : Byte
  /-- The sound timer (R27). -/
  st : Byte
  /-- The framebuffer (R28). -/
  fb : Framebuffer
  /-- Memory (R50). -/
  mem : Memory
  /-- The keypad, true where a key is down; owned by the input port (R29). -/
  keys : Vector Bool 16
  /-- The run state (R30). -/
  run : RunState
  /-- The fault record, written once (R31). -/
  fault : Option FaultRecord
  /-- The byte count of the loaded ROM (R32). -/
  romSize : Nat
  /-- Whether a load has succeeded (R231: "no load has succeeded"; an empty ROM leaves `romSize` 0). -/
  loaded : Bool
  /-- Whether a load has failed, after which the engine is never started (R231, E7; assumption 13). -/
  loadFailed : Bool
  /-- What the block has emitted, the latest first (R213, R220; assumption 6). -/
  outputs : List Output
  /-- The steps of the agents still to come, the next first; after them the engine has every turn
  (R212; assumption 2). -/
  schedule : List Turn
  /-- The next random draws, where the environment supplies them (R208; assumption 3). -/
  randomIn : List Byte
  /-- How many random draws have been made (R208; assumption 3). -/
  randomCount : Nat
  deriving DecidableEq, Repr

/-- Why no step is possible: it is the engine's turn, nobody else's step is scheduled, and the engine has no
step in its run state (R30, R212; E6 and E12 call this `stuck`). Raised by `step` alone, never by an
instruction. Safe: the machine stops where the spec gives no step. The spec's own faults (R201) are NOT here:
taking one is a next state with the record written (R202). -/
inductive Fault where
  /-- `run = Idle`: constructed, not started. Raised by `step`; safe. -/
  | notStarted
  /-- `run = WaitKey(x)` and no key event is to come (E6). Raised by `step`; safe. -/
  | waitingForKey
  /-- `run = Stopped`, which is final (R233). Raised by `step`; safe. -/
  | stopped
  /-- `run = Faulted(f)`, which is final (R203). Raised by `step`; safe. -/
  | faulted
  deriving DecidableEq, Repr

/-- The reasons to refuse an instruction. -/
inductive Refusal where
  /-- An arm of `exec` whose meaning is not written. Raised by no instruction of this model; safe. -/
  | notModelled (mnemonic : String)
  deriving DecidableEq, Repr

/-- Right after construction (R36, R230), at the default FONT_TABLE: memory lists nothing, because an
unlisted address reads as its reset contents. The model's own fields are empty (assumptions 2, 3, 6). -/
def State.reset : State where
  v := Vector.replicate 16 0
  i := 0
  pc := 0x200
  sp := 0
  stack := Vector.replicate 16 0
  dt := 0
  st := 0
  fb := Vector.replicate 32 (Vector.replicate 64 false)
  mem := []
  keys := Vector.replicate 16 false
  run := .idle
  fault := none
  romSize := 0
  loaded := false
  loadFailed := false
  outputs := []
  schedule := []
  randomIn := []
  randomCount := 0

/-- The machine's answer to a step or an instruction. -/
abbrev Result := Host.Outcome State Fault Refusal

/-- What the host observes (R213). -/
structure Observation where
  fb          : Framebuffer
  romSize     : Nat
  run         : RunState
  fault       : Option FaultRecord
  soundActive : Bool
  events      : List Output
  deriving DecidableEq, Repr

end Sys2Proof.Machine
end

