-- ==== Sys2Proof/Machine/Ops.lean ====
section
/-! DEFINITION. The named operations on memory, registers, framebuffer and control state; raising a fault;
fetching a word. -/

namespace Sys2Proof.Machine

/-! ## Memory (R50 to R56) -/

/-- What an address reads as when it is not listed: its reset contents, the font below 0x050 and 0 elsewhere
(R36, R51, R52, R53). -/
def Memory.unlisted (a : Nat) : Byte := Config.fontTable.getD a 0

/-- Canonical from address `lo` on: addresses strictly rising and existing, no cell equal to what its
address reads as unlisted. -/
def Memory.wfFrom (lo : Nat) : Memory → Bool
  | [] => true
  | (a, b) :: m =>
    decide (lo ≤ a) && decide (a < Config.memSize) && decide (b ≠ Memory.unlisted a) && Memory.wfFrom (a + 1) m

/-- The canonical form of memory. -/
def Memory.wf (m : Memory) : Bool := Memory.wfFrom 0 m

/-- The byte at an address. -/
def Memory.get : Memory → Nat → Byte
  | [], a => Memory.unlisted a
  | (b, u) :: m, a => if b < a then Memory.get m a else if b = a then u else Memory.unlisted a

/-- A cell in front of the cells above it, unless its address reads so unlisted. -/
def Memory.put (a : Nat) (b : Byte) (m : Memory) : Memory :=
  if b = Memory.unlisted a then m else (a, b) :: m

/-- `mem[a] <- b` on the list, in canonical form. -/
def Memory.set : Memory → Nat → Byte → Memory
  | [], a, b => Memory.put a b []
  | (c, u) :: m, a, b =>
    if c < a then (c, u) :: Memory.set m a b
    else if c = a then Memory.put a b m
    else Memory.put a b ((c, u) :: m)

/-- Bytes written from address `a` upwards. The addresses differ, so the order of the writes is not seen. -/
def Memory.setBytes (m : Memory) (a : Nat) : List Byte → Memory
  | [] => m
  | b :: bs => Memory.set (Memory.setBytes m (a + 1) bs) a b

/-- The lowest address that does not exist among the `count` addresses from `base` (R56). The sum is an exact
integer, never reduced (R10). -/
def firstBeyond (base : Nat) : Nat → Option Nat
  | 0 => none
  | count + 1 => if Config.memSize ≤ base then some base else firstBeyond (base + 1) count

/-- `mem[a]` for an address that exists (R54). -/
def State.peek (s : State) (a : Nat) : Byte := s.mem.get a

/-- The `count` bytes from `base`, lowest address first. -/
def State.peekBytes (s : State) (base count : Nat) : List Byte :=
  (List.range count).map fun r => s.peek (base + r)

/-! ## Registers and control state -/

/-- Read `V[r]` (R20). None is hardwired. -/
def State.reg (s : State) (r : Nibble) : Byte := s.v[r.toNat]'r.isLt

/-- `V[r] <- b`. -/
def State.setReg (s : State) (r : Nibble) (b : Byte) : State :=
  { s with v := s.v.set r.toNat b r.isLt }

/-- All of V at once. -/
def State.setRegs (s : State) (v : Vector Byte 16) : State := { s with v := v }

/-- `I <- w`. -/
def State.setI (s : State) (w : Word) : State := { s with i := w }

/-- `pc <- w`. -/
def State.setPc (s : State) (w : Word) : State := { s with pc := w }

/-- The stack entries and the count of used frames. -/
def State.setFrames (s : State) (stack : Vector Word 16) (sp : Fin 17) : State :=
  { s with stack := stack, sp := sp }

/-- `DT <- b`. -/
def State.setDt (s : State) (b : Byte) : State := { s with dt := b }

/-- `ST <- b`. -/
def State.setSt (s : State) (b : Byte) : State := { s with st := b }

/-- The framebuffer replaced. -/
def State.setFb (s : State) (fb : Framebuffer) : State := { s with fb := fb }

/-- Memory replaced. -/
def State.setMem (s : State) (m : Memory) : State := { s with mem := m }

/-- `KeyDown(k)`, the level of a key (R209). -/
def State.keyDown (s : State) (k : Nibble) : Bool := s.keys[k.toNat]'k.isLt

/-- `keys[k] <- b`, the input port's write (R209). -/
def State.setKey (s : State) (k : Nibble) (b : Bool) : State :=
  { s with keys := s.keys.set k.toNat b k.isLt }

/-- `run <- r`. -/
def State.setRun (s : State) (r : RunState) : State := { s with run := r }

/-- `fault <- f`. -/
def State.setFault (s : State) (f : FaultRecord) : State := { s with fault := some f }

/-- `rom_size <- n`, and the load has succeeded (R231). -/
def State.setRom (s : State) (n : Nat) : State := { s with romSize := n, loaded := true }

/-- A load has failed: the report, and the memory of it that keeps the engine from ever being started; nothing else
changes (R231, E7; assumption 13). -/
def State.failLoad (s : State) (reason : LoadFailure) : State :=
  { s with loadFailed := true, outputs := .loadFailed reason :: s.outputs }

/-- An event appended to what the block has emitted. -/
def State.emit (s : State) (e : Output) : State := { s with outputs := e :: s.outputs }

/-- What is left of the schedule. -/
def State.setSchedule (s : State) (ts : List Turn) : State := { s with schedule := ts }

/-- Sequential advance, `pc <- pc + 2` (R81). -/
def State.advance (s : State) : State := s.setPc (s.pc + 2)

/-- Skip, `pc <- pc + 4` when the condition holds, else `pc <- pc + 2` (R81). -/
def State.skipIf (s : State) (c : Bool) : State := s.setPc (s.pc + if c then 4 else 2)

/-! ## The random source (R208) -/

/-- The next draw: the one the environment supplies, else a free value (U1). -/
def State.randomByte (s : State) : Byte :=
  match s.randomIn with
  | b :: _ => b
  | [] => Config.randomByte s.randomCount

/-- The draw is taken; the next one is a fresh one. -/
def State.dropRandom (s : State) : State :=
  { s with randomIn := s.randomIn.tail, randomCount := s.randomCount + 1 }

/-! ## The framebuffer (R28, R101) -/

/-- `FB[r][c]`. -/
def Framebuffer.get (fb : Framebuffer) (r : Fin 32) (c : Fin 64) : Bool := fb[r][c]

/-- `FB[r][c] <- b`. -/
def Framebuffer.set (fb : Framebuffer) (r : Fin 32) (c : Fin 64) (b : Bool) : Framebuffer :=
  Vector.set fb r.val (fb[r].set c.val b)

/-- All pixels clear (R100). -/
def Framebuffer.clear : Framebuffer := Vector.replicate 32 (Vector.replicate 64 false)

/-- The framebuffer and the collision flag as a draw goes on (R101). -/
structure DrawState where
  fb : Framebuffer
  collision : Bool
  deriving DecidableEq, Repr

/-- The framebuffer column of bit `i` of a sprite row drawn at `ox`: bit 7, the most significant, lands in column `ox`
and bit 0 in column `ox + 7`, wrapping (R101; the spec's decision D13). -/
def spriteCol (ox i : Nat) : Fin 64 := Fin.ofNat 64 (ox + 7 - i)

/-- The framebuffer row of sprite row `j` drawn at `oy`, wrapping (R101). -/
def spriteRow (oy j : Nat) : Fin 32 := Fin.ofNat 32 (oy + j)

/-- One pixel of a draw: `FB[r][c] <- old ^ bit`, and the flag is set if a set pixel is cleared (R101). -/
def DrawState.pixel (d : DrawState) (r : Fin 32) (c : Fin 64) (bit : Bool) : DrawState :=
  { fb := d.fb.set r c (d.fb.get r c ^^ bit), collision := d.collision || (d.fb.get r c && bit) }

/-- Row `r` of a draw, from bit `k - 1` down to bit 0 (R101). -/
def DrawState.row (d : DrawState) (r : Fin 32) (ox : Nat) (b : Byte) : Nat → DrawState
  | 0 => d
  | i + 1 => DrawState.row (d.pixel r (spriteCol ox i) (b.getLsbD i)) r ox b i

/-- The rows of a draw, from sprite row `j` on (R101). -/
def DrawState.rows (d : DrawState) (ox oy : Nat) : Nat → List Byte → DrawState
  | _, [] => d
  | j, b :: bs => DrawState.rows (d.row (spriteRow oy j) ox b 8) ox oy (j + 1) bs

/-- A whole draw of the sprite `bs` at column `ox`, row `oy`: the flag starts at 0 (R101). -/
def drawSprite (fb : Framebuffer) (ox oy : Nat) (bs : List Byte) : DrawState :=
  DrawState.rows { fb := fb, collision := false } ox oy 0 bs

/-! ## Faults (R201, R202) -/

/-- The numeric code of a fault (R201; the spec's decision D30). -/
def FaultInfo.code : FaultInfo → Nat
  | .memOutOfBounds _ _ => 1
  | .stackOverflow => 2
  | .stackUnderflow => 3
  | .keyOutOfRange _ => 4

/-- TAKING A FAULT: the record is written with the pc of the faulting instruction, the engine enters
`Faulted`, and the host gets the report. Nothing else changes: `pc` stays, control goes to no handler (R202). -/
def State.takeFault (s : State) (info : FaultInfo) (w : Option Word) : State :=
  let f : FaultRecord := { info := info, pc := s.pc, w := w }
  ((s.setFault f).setRun (.faulted f)).emit (.faultReport f)

/-- An instruction raises a fault: the record holds its word (R201). There is no return from a fault (R203). -/
def raise (i : Instr) (info : FaultInfo) (s : State) : Result :=
  .next (s.takeFault info (some (encode i)))

/-- The instruction `i` touches the `count` addresses from `base`: they are all checked before anything
changes, and the lowest that does not exist is the fault (R56); else `body` runs. -/
def withRange (i : Instr) (access : Access) (base count : Nat) (s : State) (body : State) : Result :=
  match firstBeyond base count with
  | some a => raise i (.memOutOfBounds a access) s
  | none => .next body

/-! ## Fetch (R57, R80, R82) -/

/-- What the fetch finds at `pc`: the big-endian word of the bytes at `pc` and `pc + 1`, or the address of the
two that does not exist. -/
inductive Fetched where
  | word (w : Word)
  | beyond (addr : Nat)
  deriving DecidableEq, Repr

/-- The fetch. Any `pc`, odd or even (R58). -/
def State.fetch (s : State) : Fetched :=
  match firstBeyond s.pc.toNat 2 with
  | some a => .beyond a
  | none => .word (wordOfBytes (s.peek s.pc.toNat) (s.peek (s.pc.toNat + 1)))

/-- The fetch fault: no instruction word was read (R82, R201). -/
def State.fetchFault (s : State) (addr : Nat) : State :=
  s.takeFault (.memOutOfBounds addr .fetch) none

/-- The unknown-opcode path: report the address and the word, advance by 2, change nothing else (R77, R205). -/
def execUnknown (w : Word) (s : State) : Result :=
  .next ((s.emit (.unknownOpcode s.pc w)).advance)

end Sys2Proof.Machine
end

