-- ==== Sys2Proof/Machine/Operands.lean ====
section
/-! DEFINITION. The operand forms (R73, R146): register, byte, address, key, effective address. -/

namespace Sys2Proof.Machine

/-- A 12-bit address written to `pc` or `I`, zero-extended (R73). -/
def addrWord (nnn : Addr) : Word := nnn.setWidth 16

/-- A byte added to a 16-bit register, zero-extended (R73, R117, R141). -/
def byteWord (b : Byte) : Word := b.setWidth 16

/-- The one data addressing mode, "I plus a constant offset", whose base is the exact integer in I (R146). -/
def State.base (s : State) : Nat := s.i.toNat

/-- The key number an instruction takes from `V[x]`, if there is such a key (R160, R161). -/
def keyNumber (b : Byte) : Option Nibble := if b.toNat < 16 then some (b.setWidth 4) else none

/-- The registers `V[0]` to `V[x]` in order (R144). -/
def State.regsUpTo (s : State) (x : Nibble) : List Byte :=
  (List.range (x.toNat + 1)).map fun r => s.reg (BitVec.ofNat 4 r)

/-- V with `V[0]` to `V[x]` read from the bytes at `base` upwards (R145). -/
def State.regsFrom (s : State) (base : Nat) (x : Nibble) : Vector Byte 16 :=
  Vector.ofFn fun r : Fin 16 => if r.val ≤ x.toNat then s.peek (base + r.val) else s.v[r]

/-- The address of the glyph a digit names, `font_table_base + 5 * b`; the digit is not masked (R142). -/
def glyphAddr (b : Byte) : Word := BitVec.ofNat 16 (Config.fontBase + Config.fontGlyphBytes * b.toNat)

/-- The hundreds, tens and ones digits of a byte (R143). -/
def bcd (b : Byte) : List Byte :=
  [BitVec.ofNat 8 (b.toNat / 100), BitVec.ofNat 8 (b.toNat / 10 % 10), BitVec.ofNat 8 (b.toNat % 10)]

end Sys2Proof.Machine
end

