-- ==== Sys2Proof/Machine/Flags.lean ====
section
/-! DEFINITION. The flag values VF takes (R21, R120), and the write of VF as a flag. -/

namespace Sys2Proof.Machine

/-- A flag as the byte VF holds: 1 or 0. -/
def flagByte (b : Bool) : Byte := if b then 1 else 0

/-- The carry of add-reg: the mathematical sum exceeds 255 (R127). -/
def carry (a b : Byte) : Bool := decide (a.toNat + b.toNat > 255)

/-- The no-borrow of sub-reg and subn-reg: the minuend is at least the subtrahend (R128, R130). -/
def noBorrow (a b : Byte) : Bool := decide (a.toNat ≥ b.toNat)

/-- The bit shift-right shifts out (R129). -/
def lowBit (b : Byte) : Bool := b.getLsbD 0

/-- The bit shift-left shifts out (R131). -/
def highBit (b : Byte) : Bool := b.getLsbD 7

/-- `VF <- 1 if f else 0`. -/
def State.setFlag (s : State) (f : Bool) : State := s.setReg VF (flagByte f)

end Sys2Proof.Machine
end

