-- ==== Sys2Proof/Machine/Alu.lean ====
section
/-! DEFINITION. Loads, arithmetic, logic, shifts and random (43_alu.md). The statements of a rule run in order,
each reading what the earlier ones left (R8): where `x` or `y` is 15, the second statement of a subtraction or
a shift reads the new flag. -/

namespace Sys2Proof.Machine

/-- `V[x] <- b`, then advance: the last two statements of every rule of this file. -/
def State.write (s : State) (x : Nibble) (b : Byte) : State := (s.setReg x b).advance

/-- R121. -/
def execLdImm (x : Nibble) (kk : Byte) (s : State) : Result := .next (s.write x kk)

/-- R122: no flag. -/
def execAddImm (x : Nibble) (kk : Byte) (s : State) : Result := .next (s.write x (s.reg x + kk))

/-- R123. -/
def execLdReg (x y : Nibble) (s : State) : Result := .next (s.write x (s.reg y))

/-- R124: VF is not reset. -/
def execOrReg (x y : Nibble) (s : State) : Result := .next (s.write x (s.reg x ||| s.reg y))

/-- R125. -/
def execAndReg (x y : Nibble) (s : State) : Result := .next (s.write x (s.reg x &&& s.reg y))

/-- R126. -/
def execXorReg (x y : Nibble) (s : State) : Result := .next (s.write x (s.reg x ^^^ s.reg y))

/-- R127: the sum is read before any write; the carry, then the sum. -/
def execAddReg (x y : Nibble) (s : State) : Result :=
  let a := s.reg x
  let b := s.reg y
  .next ((s.setFlag (carry a b)).write x (a + b))

/-- R128: the no-borrow, then the difference of the registers as they then stand. -/
def execSubReg (x y : Nibble) (s : State) : Result :=
  let s := s.setFlag (noBorrow (s.reg x) (s.reg y))
  .next (s.write x (s.reg x - s.reg y))

/-- R129: `V[x]` alone; y is ignored. -/
def execShr (x _ign : Nibble) (s : State) : Result :=
  let s := s.setFlag (lowBit (s.reg x))
  .next (s.write x (s.reg x >>> 1))

/-- R130. -/
def execSubnReg (x y : Nibble) (s : State) : Result :=
  let s := s.setFlag (noBorrow (s.reg y) (s.reg x))
  .next (s.write x (s.reg y - s.reg x))

/-- R131: `V[x]` alone; y is ignored. -/
def execShl (x _ign : Nibble) (s : State) : Result :=
  let s := s.setFlag (highBit (s.reg x))
  .next (s.write x (s.reg x <<< 1))

/-- R132: one fresh draw an execution. -/
def execRnd (x : Nibble) (kk : Byte) (s : State) : Result :=
  let r := s.randomByte
  .next (s.dropRandom.write x (r &&& kk))

end Sys2Proof.Machine
end

