-- ==== Sys2Proof/Machine/Control.lean ====
section
/-! DEFINITION. Return, jump, call, jump-add, and the register and immediate skips (42_control.md). -/

namespace Sys2Proof.Machine

/-- R110: underflow at `sp = 0`, else pop; the popped entry keeps its value (the spec's decision D10). -/
def execRet (ign : Nibble) (s : State) : Result :=
  if h : s.sp.val = 0 then raise (.ret ign) .stackUnderflow s
  else .next ((s.setFrames s.stack ⟨s.sp.val - 1, by omega⟩).setPc (s.stack[s.sp.val - 1]'(by omega)))

/-- R111. -/
def execJp (nnn : Addr) (s : State) : Result := .next (s.setPc (addrWord nnn))

/-- R112: overflow when all 16 frames are in use, else push `pc + 2` (the spec's decision D4). -/
def execCall (nnn : Addr) (s : State) : Result :=
  if h : s.sp.val < 16 then
    .next ((s.setFrames (s.stack.set s.sp.val (s.pc + 2)) ⟨s.sp.val + 1, by omega⟩).setPc (addrWord nnn))
  else raise (.call nnn) .stackOverflow s

/-- R113. -/
def execSeImm (x : Nibble) (kk : Byte) (s : State) : Result := .next (s.skipIf (s.reg x == kk))

/-- R114. -/
def execSneImm (x : Nibble) (kk : Byte) (s : State) : Result := .next (s.skipIf (s.reg x != kk))

/-- R115. -/
def execSeReg (x y _ign : Nibble) (s : State) : Result := .next (s.skipIf (s.reg x == s.reg y))

/-- R116. -/
def execSneReg (x y _ign : Nibble) (s : State) : Result := .next (s.skipIf (s.reg x != s.reg y))

/-- R117: the sum is not reduced; it is at most 0x10FE. -/
def execJpV0 (nnn : Addr) (s : State) : Result := .next (s.setPc (addrWord nnn + byteWord (s.reg 0)))

end Sys2Proof.Machine
end

