-- ==== Sys2Proof/Machine/Display.lean ====
section
/-! DEFINITION. clear-screen and draw (41_display.md). -/

namespace Sys2Proof.Machine

/-- R100: clear every pixel, repaint, advance. -/
def execCls (_ign : Nibble) (s : State) : Result :=
  let s := s.setFb Framebuffer.clear
  .next ((s.emit (.repaint s.fb)).advance)

/-- What draw does once its sprite bytes are known to exist: the operands `V[x]`, `V[y]`, `I` are those of the
state before VF is reset (R101; the spec's decision D12). -/
def State.draw (s : State) (x y n : Nibble) : State :=
  let d := drawSprite s.fb (s.reg x).toNat (s.reg y).toNat (s.peekBytes s.base n.toNat)
  let s := (s.setFlag d.collision).setFb d.fb
  (s.emit (.repaint s.fb)).advance

/-- R101. -/
def execDrw (x y n : Nibble) (s : State) : Result :=
  withRange (.drw x y n) .read s.base n.toNat s (s.draw x y n)

end Sys2Proof.Machine
end

