-- ==== Sys2Proof/Machine/IndexMemory.lean ====
section
/-! DEFINITION. The instructions that write I and those that go through it to memory (44_index_memory.md). No
access changes I (R146). -/

namespace Sys2Proof.Machine

/-- R140. -/
def execLdI (nnn : Addr) (s : State) : Result := .next ((s.setI (addrWord nnn)).advance)

/-- R141: modulo 2^16, no flag. -/
def execAddI (x : Nibble) (s : State) : Result := .next ((s.setI (s.i + byteWord (s.reg x))).advance)

/-- R142. -/
def execLdF (x : Nibble) (s : State) : Result := .next ((s.setI (glyphAddr (s.reg x))).advance)

/-- R143. -/
def execLdB (x : Nibble) (s : State) : Result :=
  withRange (.ldB x) .write s.base 3 s ((s.setMem (s.mem.setBytes s.base (bcd (s.reg x)))).advance)

/-- R144. -/
def execStRegs (x : Nibble) (s : State) : Result :=
  withRange (.stRegs x) .write s.base (x.toNat + 1) s ((s.setMem (s.mem.setBytes s.base (s.regsUpTo x))).advance)

/-- R145. -/
def execLdRegs (x : Nibble) (s : State) : Result :=
  withRange (.ldRegs x) .read s.base (x.toNat + 1) s ((s.setRegs (s.regsFrom s.base x)).advance)

end Sys2Proof.Machine
end

