-- ==== Sys2Proof/Machine/TimersKeys.lean ====
section
/-! DEFINITION. The key skips, the entry to the key wait, and the timer moves (45_timers_keys.md). The completion
of a key wait is the input port's step (Machine/Environment.lean). -/

namespace Sys2Proof.Machine

/-- R160: polls, never blocks; a `V[x]` of 16 or more is a fault (the spec's decision D14). -/
def execSkp (x : Nibble) (s : State) : Result :=
  match keyNumber (s.reg x) with
  | some k => .next (s.skipIf (s.keyDown k))
  | none => raise (.skp x) (.keyOutOfRange (s.reg x)) s

/-- R161. -/
def execSknp (x : Nibble) (s : State) : Result :=
  match keyNumber (s.reg x) with
  | some k => .next (s.skipIf (!s.keyDown k))
  | none => raise (.sknp x) (.keyOutOfRange (s.reg x)) s

/-- R162. -/
def execLdVxDT (x : Nibble) (s : State) : Result := .next ((s.setReg x s.dt).advance)

/-- R163: the engine suspends; `pc` and `V[x]` stay until a key goes down (R164). -/
def execLdVxK (x : Nibble) (s : State) : Result := .next (s.setRun (.waitKey x))

/-- R165. -/
def execLdDTVx (x : Nibble) (s : State) : Result := .next ((s.setDt (s.reg x)).advance)

/-- R166. -/
def execLdSTVx (x : Nibble) (s : State) : Result := .next ((s.setSt (s.reg x)).advance)

end Sys2Proof.Machine
end

