-- ==== Sys2Proof/Machine/Environment.lean ====
section
/-! DEFINITION. The steps of the agents around the engine (R206, R209, R210, R213, R230, R231), each a function of
the state. A step that is not enabled, and a host request that is refused, change nothing (R212, R213, E8). -/

namespace Sys2Proof.Machine

/-- Whether the engine has been started and has not ended: `Running` or `WaitKey(_)` (R206, R212). -/
def RunState.live : RunState → Bool
  | .running => true
  | .waitKey _ => true
  | .idle => false
  | .stopped => false
  | .faulted _ => false

/-- "decrement … by 1 if nonzero", never wrapping (R206). -/
def countDown (b : Byte) : Byte := if b = 0 then 0 else b - 1

/-- Tick (R206): both timers in one step. -/
def tick (s : State) : State :=
  if s.run.live then (s.setDt (countDown s.dt)).setSt (countDown s.st) else s

/-- The completion of load-key-blocking (R164). -/
def completeWait (x k : Nibble) (s : State) : State :=
  ((s.setReg x (k.setWidth 8)).advance).setRun .running

/-- KeyChange(k, b) (R209). Where the key goes down that was up, it is KeyPress(k), and completes a wait in the
same step (R210); a key already down does not. -/
def keyChange (k : Nibble) (down : Bool) (s : State) : State :=
  match s.run, down && !s.keyDown k with
  | .waitKey x, true => completeWait x k (s.setKey k down)
  | _, _ => s.setKey k down

/-- LoadRom(result) (R231): enabled only in `Idle` while no load has succeeded, else refused with no effect. That a load
may still be tried after a failed one, which the guard of R231 allows, is the model's reading (assumption 13). -/
def loadRom (result : LoadResult) (s : State) : State :=
  if s.run = .idle ∧ s.loaded = false then
    match result with
    | .readFailure => s.failLoad .unreadable
    | .bytes rom =>
      if rom.length > Config.romMax then s.failLoad .tooLarge
      else (s.setMem (s.mem.setBytes Config.programBase rom)).setRom rom.length
  else s

/-- Start (R213): after a successful load, once. After a failed load never, whatever is loaded later: "`run` stays `Idle`
for ever" (R231, E7; assumption 13). -/
def start (s : State) : State :=
  if s.run = .idle ∧ s.loaded = true ∧ s.loadFailed = false then s.setRun .running else s

/-- Stop (R213): everything else is kept. -/
def stop (s : State) : State := if s.run.live then s.setRun .stopped else s

/-- Memory with every byte 0, as construction has it before the font is written (R36, R230). -/
def Memory.blank : Memory := Memory.setBytes [] Config.fontBase (List.replicate 80 0)

/-- Construct (R230) with a FONT_TABLE of the host's: every element at its reset value, then the font at
0x000 up. -/
def State.construct (font : List Byte) : State :=
  State.reset.setMem (Memory.blank.setBytes Config.fontBase font)

/-- The sound status output (R211). -/
def State.soundActive (s : State) : Bool := s.st != 0

/-- Observe (R213): at any time, changing nothing; the events in the order they were emitted. -/
def State.observe (s : State) : Observation where
  fb := s.fb
  romSize := s.romSize
  run := s.run
  fault := s.fault
  soundActive := s.soundActive
  events := s.outputs.reverse

end Sys2Proof.Machine
end

