-- ==== Sys2Proof/Machine/Step.lean ====
section
/-! DEFINITION. One step of one agent (R80, R212), and how the host places an instruction to run. -/

namespace Sys2Proof.Machine

/-- InstructionStep (R80): fetch, decode, dispatch, execute, in one atomic transition. -/
def instructionStep (s : State) : Host.Outcome State Fault Refusal :=
  match s.fetch with
  | .beyond a => .next (s.fetchFault a)
  | .word w =>
    match decodeWord w with
    | .instr i => exec i s
    | .unknownOpcode w => execUnknown w s
    | .truncated _ => execUnknown w s

/-- The engine's turn when nothing else is scheduled: it steps while `Running`; in the other run states it has no
step, and none is to come (R30, R212, E6, E12). -/
def engineAlone (s : State) : Host.Outcome State Fault Refusal :=
  match s.run with
  | .running => instructionStep s
  | .idle => .fault .notStarted
  | .waitKey _ => .fault .waitingForKey
  | .stopped => .fault .stopped
  | .faulted _ => .fault .faulted

/-- A scheduled turn. One that is not enabled changes nothing (R212; assumption 2). -/
def takeTurn (t : Turn) (s : State) : Host.Outcome State Fault Refusal :=
  match t with
  | .engine => if s.run = .running then instructionStep s else .next s
  | .tick => .next (Sys2Proof.Machine.tick s)
  | .keyChange k down => .next (Sys2Proof.Machine.keyChange k down s)
  | .loadRom result => .next (Sys2Proof.Machine.loadRom result s)
  | .start => .next (Sys2Proof.Machine.start s)
  | .stop => .next (Sys2Proof.Machine.stop s)

/-- One step of the machine: the agent whose turn is next takes it; when nobody is scheduled, the engine. -/
def step (s : State) : Host.Outcome State Fault Refusal :=
  match s.schedule with
  | [] => engineAlone s
  | t :: ts => takeTurn t (s.setSchedule ts)

/-- Two bytes placed at `pc` as memory holds a word (R57). -/
def State.placeWord (s : State) (w : Word) : State :=
  s.setMem (s.mem.setBytes s.pc.toNat [w.hi, w.lo])

/-- `s` with the table word `w` of `nbits` bits as the instruction the very next step runs: the word at `pc` (at
0x200 where `pc` is beyond the last address a word can be fetched from), the engine started, and no other agent's
step before it. This stands for a load and a start from outside (assumption 4). -/
def State.withFetchWord (s : State) (nbits w : Nat) : State :=
  let s := if s.pc.toNat + 1 < Config.memSize then s else s.setPc 0x200
  let s := s.placeWord (BitVec.ofNat 16 (w % 2 ^ nbits))
  { s with run := .running, loaded := true, loadFailed := false, schedule := [] }

end Sys2Proof.Machine
end

