-- ==== Sys2Proof/Machine/Runs.lean ====
section
/-! DEFINITION. A run of the block for ever, as an interleaving of its agents' steps, and the fairness that liveness
claims may assume of it (R212). -/

namespace Sys2Proof.Machine

/-- A RUN: from each state the agent whose turn it is takes its step, by the machine's own `step`. `turn n` is any turn at
all, so any enabled step may come next (R212). A turn that is not enabled passes (assumption 2), which is how a run that
comes to rest, in `Stopped` say, is continued here (assumption 14). -/
def IsRun (state : Nat → State) (turn : Nat → Turn) : Prop :=
  ∀ n, step ((state n).setSchedule [turn n]) = .next (state (n + 1))

/-- The engine's fairness: "While `run = Running`, the engine takes a step infinitely often" (R212). From any time on at
which `run` stays `Running`, the engine's turn comes; applied to later and later times, it comes infinitely often
(assumption 14). -/
def EngineFair (state : Nat → State) (turn : Nat → Turn) : Prop :=
  ∀ n, (∀ m, n ≤ m → (state m).run = .running) → ∃ m, n ≤ m ∧ turn m = .engine

/-- The timer driver's fairness: "While `run` is `Running` or `WaitKey`, the timer driver ticks infinitely often" (R212;
assumption 14). -/
def TimerFair (state : Nat → State) (turn : Nat → Turn) : Prop :=
  ∀ n, (∀ m, n ≤ m → (state m).run.live = true) → ∃ m, n ≤ m ∧ turn m = .tick

/-- A FAIR RUN (R212). No ratio between the two rates is promised, and nothing of the input port or the host. -/
def FairRun (state : Nat → State) (turn : Nat → Turn) : Prop :=
  IsRun state turn ∧ EngineFair state turn ∧ TimerFair state turn

end Sys2Proof.Machine
end

