-- ==== Sys2Proof/Safety.lean ====
section
/-! DEFINITION. The terms the statements use: frames, faults, the access matrix, the invariant of the machine, the ends
of a run. -/

namespace Sys2Proof.Machine

/-! ## Frames (R9) -/

/-- The pieces of state other than the V registers and memory, which frames take one register and one byte at a time. -/
inductive Piece where
  | i | pc | frames | dt | st | fb | keys | run | fault | rom | loadFailed | outputs | schedule | random
  deriving DecidableEq, Repr

/-- The piece holds the same in both states. -/
def Piece.Same : Piece → State → State → Prop
  | .i, s, t => t.i = s.i
  | .pc, s, t => t.pc = s.pc
  | .frames, s, t => t.sp = s.sp ∧ t.stack = s.stack
  | .dt, s, t => t.dt = s.dt
  | .st, s, t => t.st = s.st
  | .fb, s, t => t.fb = s.fb
  | .keys, s, t => t.keys = s.keys
  | .run, s, t => t.run = s.run
  | .fault, s, t => t.fault = s.fault
  | .rom, s, t => t.romSize = s.romSize ∧ t.loaded = s.loaded
  | .loadFailed, s, t => t.loadFailed = s.loadFailed
  | .outputs, s, t => t.outputs = s.outputs
  | .schedule, s, t => t.schedule = s.schedule
  | .random, s, t => t.randomIn = s.randomIn ∧ t.randomCount = s.randomCount

/-- The frame rule (R9) from `s` to `t`: every piece but the listed ones, every V register but the listed ones, and
every byte of memory but the `len` bytes from `base` reads as before. -/
def Keeps (s t : State) (pieces : List Piece) (regs : List Nibble) (base len : Nat) : Prop :=
  (∀ p, p ∉ pieces → p.Same s t) ∧
  (∀ r, r ∉ regs → t.reg r = s.reg r) ∧
  (∀ a, a < base ∨ base + len ≤ a → t.peek a = s.peek a)

/-- The frame of a step that stores nothing: all of memory reads as before. -/
abbrev KeepsAllBut (s t : State) (pieces : List Piece) (regs : List Nibble) : Prop := Keeps s t pieces regs 0 0

/-! ## Encodings (R75) -/

/-- The instruction has the row `mask`, `bits` of the opcode map, and its word decodes to it. -/
def InRow (i : Instr) (mask bits : Word) : Prop := encode i &&& mask = bits ∧ decodeWord (encode i) = .instr i

/-! ## Faults (R201, R202) -/

/-- The state a fault leaves (R202): the record is written, the engine is `Faulted`, the host has the report. -/
def State.faulted (s : State) (info : FaultInfo) (w : Option Word) : State :=
  { s with
    fault := some ⟨info, s.pc, w⟩
    run := .faulted ⟨info, s.pc, w⟩
    outputs := .faultReport ⟨info, s.pc, w⟩ :: s.outputs }

/-- The instruction takes the fault (R202), and its record holds the instruction's word (R201). -/
def FaultsWith (i : Instr) (s : State) (info : FaultInfo) : Prop :=
  exec i s = .next (s.faulted info (some (encode i)))

/-- `a` is the lowest address of the `count` from `base` that does not exist (R56). -/
def LowestBeyond (base count a : Nat) : Prop :=
  ∃ j < count, a = base + j ∧ Config.memSize ≤ base + j ∧ ∀ k < j, base + k < Config.memSize

/-- All the `count` addresses from `base` exist. -/
def InRange (base count : Nat) : Prop := ∀ j < count, base + j < Config.memSize

/-- The fault of a range of accesses, if one of them is to an address that does not exist (R56). -/
def rangeFault (access : Access) (base count : Nat) : Option FaultInfo :=
  if count = 0 ∨ base + count ≤ Config.memSize then none
  else some (.memOutOfBounds (max base Config.memSize) access)

end Sys2Proof.Machine

namespace Sys2Proof
open Machine

/-- When an instruction faults, and with which fault: the "raised by" column of R201 with the conditions of the rules
it cites. -/
def Instr.faultIn : Instr → State → Option FaultInfo
  | .ret _, s => if s.sp.val = 0 then some .stackUnderflow else none
  | .call _, s => if s.sp.val = 16 then some .stackOverflow else none
  | .drw _ _ n, s => rangeFault .read s.i.toNat n.toNat
  | .skp x, s => if 16 ≤ (s.reg x).toNat then some (.keyOutOfRange (s.reg x)) else none
  | .sknp x, s => if 16 ≤ (s.reg x).toNat then some (.keyOutOfRange (s.reg x)) else none
  | .ldB _, s => rangeFault .write s.i.toNat 3
  | .stRegs x, s => rangeFault .write s.i.toNat (x.toNat + 1)
  | .ldRegs x, s => rangeFault .read s.i.toNat (x.toNat + 1)
  | .cls _, _ => none
  | .jp _, _ => none
  | .seImm _ _, _ => none
  | .sneImm _ _, _ => none
  | .seReg _ _ _, _ => none
  | .ldImm _ _, _ => none
  | .addImm _ _, _ => none
  | .ldReg _ _, _ => none
  | .orReg _ _, _ => none
  | .andReg _ _, _ => none
  | .xorReg _ _, _ => none
  | .addReg _ _, _ => none
  | .subReg _ _, _ => none
  | .shr _ _, _ => none
  | .subnReg _ _, _ => none
  | .shl _ _, _ => none
  | .sneReg _ _ _, _ => none
  | .ldI _, _ => none
  | .jpV0 _, _ => none
  | .rnd _ _, _ => none
  | .ldVxDT _, _ => none
  | .ldVxK _, _ => none
  | .ldDTVx _, _ => none
  | .ldSTVx _, _ => none
  | .addI _, _ => none
  | .ldF _, _ => none

/-- Which instruction may raise which fault (R201, the "raised by" column). -/
def Instr.MayRaise : Instr → FaultInfo → Prop
  | .ret _, f => f = .stackUnderflow
  | .call _, f => f = .stackOverflow
  | .drw _ _ _, f => ∃ a ≥ Config.memSize, f = .memOutOfBounds a .read
  | .ldRegs _, f => ∃ a ≥ Config.memSize, f = .memOutOfBounds a .read
  | .ldB _, f => ∃ a ≥ Config.memSize, f = .memOutOfBounds a .write
  | .stRegs _, f => ∃ a ≥ Config.memSize, f = .memOutOfBounds a .write
  | .skp _, f => ∃ b : Byte, 16 ≤ b.toNat ∧ f = .keyOutOfRange b
  | .sknp _, f => ∃ b : Byte, 16 ≤ b.toNat ∧ f = .keyOutOfRange b
  | _, _ => False

end Sys2Proof

namespace Sys2Proof.Machine

/-- A record the block can have written (R201): of a fetch fault, with no word, or of a fault that the instruction the
recorded word encodes may raise. -/
def FaultRecord.Sound (f : FaultRecord) : Prop :=
  (f.w = none ∧ ∃ a ≥ Config.memSize, f.info = .memOutOfBounds a .fetch) ∨
  ∃ w i, f.w = some w ∧ decodeWord w = .instr i ∧ i.MayRaise f.info

end Sys2Proof.Machine

namespace Sys2Proof

open Machine

/-! ## The access matrix (R35) -/

/-- The V registers an instruction writes: the "w" entries of the columns V and VF. -/
def Instr.destRegs : Instr → List Nibble
  | .ldImm x _ => [x]
  | .addImm x _ => [x]
  | .ldReg x _ => [x]
  | .orReg x _ => [x]
  | .andReg x _ => [x]
  | .xorReg x _ => [x]
  | .addReg x _ => [x, VF]
  | .subReg x _ => [x, VF]
  | .shr x _ => [x, VF]
  | .subnReg x _ => [x, VF]
  | .shl x _ => [x, VF]
  | .rnd x _ => [x]
  | .drw _ _ _ => [VF]
  | .ldVxDT x => [x]
  | .ldRegs x => (List.range (x.toNat + 1)).map (BitVec.ofNat 4)
  | .cls _ => []
  | .ret _ => []
  | .jp _ => []
  | .call _ => []
  | .seImm _ _ => []
  | .sneImm _ _ => []
  | .seReg _ _ _ => []
  | .sneReg _ _ _ => []
  | .ldI _ => []
  | .jpV0 _ => []
  | .skp _ => []
  | .sknp _ => []
  | .ldVxK _ => []
  | .ldDTVx _ => []
  | .ldSTVx _ => []
  | .addI _ => []
  | .ldF _ => []
  | .ldB _ => []
  | .stRegs _ => []

/-- The other pieces an instruction writes: the "w" entries of the columns I, pc, sp/stack, DT, ST and FB; the events
of clear-screen and draw; the draw random takes; and `run`, which the entry to the key wait writes in place of its
"on completion" entries (R163). -/
def Instr.destPieces : Instr → List Piece
  | .cls _ => [.pc, .fb, .outputs]
  | .drw _ _ _ => [.pc, .fb, .outputs]
  | .ret _ => [.pc, .frames]
  | .call _ => [.pc, .frames]
  | .ldI _ => [.pc, .i]
  | .addI _ => [.pc, .i]
  | .ldF _ => [.pc, .i]
  | .rnd _ _ => [.pc, .random]
  | .ldDTVx _ => [.pc, .dt]
  | .ldSTVx _ => [.pc, .st]
  | .ldVxK _ => [.run]
  | .jp _ => [.pc]
  | .seImm _ _ => [.pc]
  | .sneImm _ _ => [.pc]
  | .seReg _ _ _ => [.pc]
  | .ldImm _ _ => [.pc]
  | .addImm _ _ => [.pc]
  | .ldReg _ _ => [.pc]
  | .orReg _ _ => [.pc]
  | .andReg _ _ => [.pc]
  | .xorReg _ _ => [.pc]
  | .addReg _ _ => [.pc]
  | .subReg _ _ => [.pc]
  | .shr _ _ => [.pc]
  | .subnReg _ _ => [.pc]
  | .shl _ _ => [.pc]
  | .sneReg _ _ _ => [.pc]
  | .jpV0 _ => [.pc]
  | .skp _ => [.pc]
  | .sknp _ => [.pc]
  | .ldVxDT _ => [.pc]
  | .ldB _ => [.pc]
  | .stRegs _ => [.pc]
  | .ldRegs _ => [.pc]

/-- How many bytes from I up an instruction writes: the "w" entries of the column mem (R59). -/
def Instr.storeLen : Instr → Nat
  | .ldB _ => 3
  | .stRegs x => x.toNat + 1
  | _ => 0

end Sys2Proof

namespace Sys2Proof.Machine

/-! ## The invariant of the machine -/

/-- What every step keeps. Memory is in its canonical form; `pc` never exceeds 0x10FE (R23) and a stack entry never
0x1000 (R112); the fault record is there exactly in `Faulted`, is one the block can have written, and was reported once
(R31, R201, R202, R220); the engine waits for a key only at an instruction it fetched (R82, R163); the ROM fits (R231),
before a load the block is as constructed and not started (R213), and after a failed load it is never started (R231). -/
structure Inv (s : State) : Prop where
  memory : s.mem.wf = true
  pcBound : s.pc.toNat ≤ 0x10FE
  frameBound : ∀ k : Fin 16, (s.stack[k]).toNat ≤ 0x1000
  faultedIff : ∀ f, s.run = .faulted f ↔ s.fault = some f
  recordSound : ∀ f, s.fault = some f → f.Sound
  oneReport : ∀ f, s.outputs.count (.faultReport f) = if s.fault = some f then 1 else 0
  waitPc : ∀ x, s.run = .waitKey x → s.pc.toNat + 1 < Config.memSize
  romBound : s.romSize ≤ Config.romMax
  beforeLoad : s.loaded = false → s.run = .idle ∧ s.romSize = 0
  afterFailure : s.loadFailed = true → s.run = .idle

/-! ## The end of a run (R219) -/

/-- Point (c): running, at a jump to itself. -/
def AtSelfJump (s : State) : Prop :=
  s.run = .running ∧ s.pc.toNat + 1 < Config.memSize ∧
  ∃ nnn : Addr, decodeWord (wordOfBytes (s.peek s.pc.toNat) (s.peek (s.pc.toNat + 1))) = .instr (.jp nnn) ∧
    nnn.toNat = s.pc.toNat

/-- A run ends (R219): (a) faulted, a bad end; (b) stopped by the host; (c) at a self-jump. -/
def RunEnds (s : State) : Prop := (∃ f, s.run = .faulted f) ∨ s.run = .stopped ∨ AtSelfJump s

/-- A state of a safe run: no fault was raised. -/
def Safe (s : State) : Prop := s.fault = none

end Sys2Proof.Machine
end

