-- ==== Sys2Proof/Certificates/Slice0/Obligations.lean ====
section
/-! DEFINITION. The statements for the provers. A docstring names the rules of spec/ a statement formalises, and, where
a clause rests on a decision of the spec's own (92_eei_decisions.md) or on an assumption of the model, that. -/

open Sys2Proof Sys2Proof.Machine

/-! ## Encoding -/

/-- Decoding the bytes of an instruction gives it back and leaves the bytes after it (R57, R70, R72, R75; the bit
patterns are the spec's decision D21). -/
def Obligations.DecodeOfEncodeIsTheInstruction : Prop :=
  ∀ (i : Instr) (rest : List Byte), decode (encodeBytes i ++ rest) = (.instr i, rest)

/-- Every word is one of the 34 instructions or an unknown opcode (R78), and, where it is an instruction, the encoding of
that instruction is the word again. The second half is the model's own: a term keeps its ignored field bits
(assumption 7). -/
def Obligations.EveryWordIsAnInstructionOrUnknown : Prop :=
  ∀ w : Word, (∃ i, decodeWord w = .instr i ∧ encode i = w) ∨ decodeWord w = .unknownOpcode w

/-- R74, R75: a row of the opcode map applies exactly to the words that decode to its instruction, and no word matches
two rows (the spec's decision D21). -/
def Obligations.OpcodeMapSelectsTheInstruction : Prop :=
  opcodeMap.length = 34 ∧
  ∀ w : Word,
    (∀ row ∈ opcodeMap, w &&& row.mask = row.bits ↔ ∃ i, decodeWord w = .instr i ∧ i.mnemonic = row.mnemonic) ∧
    (∀ row ∈ opcodeMap, ∀ row' ∈ opcodeMap, w &&& row.mask = row.bits → w &&& row'.mask = row'.bits → row = row')

/-- The unknown words are those of R77's table, 13872 in all, counted over every pair of bytes (what becomes of one is
`StepFetchesDecodesAndExecutes`; the spec's decision D22). -/
def Obligations.UnknownWordsAreThe13872OfTheTable : Prop :=
  (∀ w : Word, decodeWord w = .unknownOpcode w ↔
    (w.opClass = 0x0 ∧ w.kk ≠ 0xE0 ∧ w.kk ≠ 0xEE) ∨
    (w.opClass = 0x8 ∧ w.n ∈ [(0x8 : Nibble), 0x9, 0xA, 0xB, 0xC, 0xD, 0xF]) ∨
    (w.opClass = 0xE ∧ w.kk ≠ 0x9E ∧ w.kk ≠ 0xA1) ∨
    (w.opClass = 0xF ∧ w.kk ∉ [(0x07 : Byte), 0x0A, 0x15, 0x18, 0x1E, 0x29, 0x33, 0x55, 0x65])) ∧
  ((List.range 256).map fun h => (List.range 256).countP fun l =>
    let w := wordOfBytes (BitVec.ofNat 8 h) (BitVec.ofNat 8 l)
    decide (decodeWord w = .unknownOpcode w)).sum = 13872

/-- Ten words written out from the opcode map decode to their instructions (R71, R74, R75), from each format of R72: NNN
1234; XKK 3A42; XYN 5123 (its n ignored) and D125; XYS 8014 and 80A6 (its y ignored); XSS 00E0, 05EE (its x ignored), E3A1
and F265. And 8008 is an unknown opcode. -/
def Obligations.SpelledWordsDecode : Prop :=
  (decode [0x00, 0xE0]).1 = .instr (.cls 0) ∧ (decode [0x05, 0xEE]).1 = .instr (.ret 5) ∧
  (decode [0x12, 0x34]).1 = .instr (.jp 0x234) ∧ (decode [0x3A, 0x42]).1 = .instr (.seImm 0xA 0x42) ∧
  (decode [0x51, 0x23]).1 = .instr (.seReg 1 2 3) ∧ (decode [0x80, 0x14]).1 = .instr (.addReg 0 1) ∧
  (decode [0x80, 0xA6]).1 = .instr (.shr 0 0xA) ∧ (decode [0xD1, 0x25]).1 = .instr (.drw 1 2 5) ∧
  (decode [0xE3, 0xA1]).1 = .instr (.sknp 3) ∧ (decode [0xF2, 0x65]).1 = .instr (.ldRegs 2) ∧
  (decode [0x80, 0x08]).1 = .unknownOpcode 0x8008

/-- R71: the six fields of every word, as unsigned numbers. -/
def Obligations.WordFieldsAreTheirBits : Prop :=
  ∀ w : Word,
    w.opClass.toNat = w.toNat / 4096 ∧ w.x.toNat = w.toNat / 256 % 16 ∧ w.y.toNat = w.toNat / 16 % 16 ∧
    w.n.toNat = w.toNat % 16 ∧ w.nnn.toNat = w.toNat % 4096 ∧ w.kk.toNat = w.toNat % 256

/-! ## The step, and the agents around the engine

Every statement of this section says whose step comes next by the list `schedule`, which is the model's own, and so is the
clause that a scheduled turn which is not enabled passes with no effect (assumption 2). -/

/-- R80, R82, R77, R205: while `run = Running`, a step of the engine (on its scheduled turn, or with nothing scheduled) is
a fetch fault where `pc` or `pc + 1` does not exist; else `exec` of the instruction the two bytes decode to; else the
report of an unknown opcode, which advances `pc` by 2 and changes nothing else. The schedule is the model's way to say
whose turn it is (assumption 2). -/
def Obligations.StepFetchesDecodesAndExecutes : Prop :=
  ∀ (s : State) (ts : List Turn), s.run = .running → (s.schedule = [] ∧ ts = [] ∨ s.schedule = .engine :: ts) →
    let s' : State := { s with schedule := ts }
    let w := wordOfBytes (s.peek s.pc.toNat) (s.peek (s.pc.toNat + 1))
    (4096 ≤ s.pc.toNat → step s = .next (s'.faulted (.memOutOfBounds s.pc.toNat .fetch) none)) ∧
    (s.pc.toNat + 1 = 4096 → step s = .next (s'.faulted (.memOutOfBounds 4096 .fetch) none)) ∧
    (s.pc.toNat + 1 < 4096 →
      (∀ i, (decode [s.peek s.pc.toNat, s.peek (s.pc.toNat + 1)]).1 = .instr i → step s = exec i s') ∧
      (decodeWord w = .unknownOpcode w →
        step s = .next { s' with pc := s.pc + 2, outputs := .unknownOpcode s.pc w :: s.outputs }))

/-- In a run state other than `Running` the engine has no step (R30): its scheduled turn passes with no effect, and with
nothing scheduled `step` answers the model's own stuck fault (E6, E12; assumption 2). -/
def Obligations.EngineStepsOnlyWhileRunning : Prop :=
  ∀ s : State,
    (s.run ≠ .running → ∀ ts, s.schedule = .engine :: ts → step s = .next { s with schedule := ts }) ∧
    (s.schedule = [] →
      (s.run = .idle → step s = .fault .notStarted) ∧
      ((∃ x, s.run = .waitKey x) → step s = .fault .waitingForKey) ∧
      (s.run = .stopped → step s = .fault .stopped) ∧
      ((∃ f, s.run = .faulted f) → step s = .fault .faulted))

/-- A tick counts both timers down in one step, each stopping at 0 (R206), in `Running` and `WaitKey` only (the spec's
decision D17). That a tick scheduled in another run state passes with only the schedule used up is the model's choice
(assumption 2). -/
def Obligations.TickCountsBothTimersDown : Prop :=
  ∀ (s : State) (ts : List Turn), s.schedule = .tick :: ts →
    ((s.run = .running ∨ ∃ x, s.run = .waitKey x) →
      ∃ t, step s = .next t ∧ t.dt.toNat = s.dt.toNat - 1 ∧ t.st.toNat = s.st.toNat - 1 ∧ t.schedule = ts ∧
        KeepsAllBut s t [.dt, .st, .schedule] []) ∧
    ((s.run = .idle ∨ s.run = .stopped ∨ ∃ f, s.run = .faulted f) → step s = .next { s with schedule := ts })

/-- R164, R209, R210: KeyChange writes the key's level; where a key goes down that was up and the engine waits for it, the
same step writes the key number to `V[x]`, advances and resumes; else nothing but the keypad changes (the spec's
decisions D15, D16). -/
def Obligations.KeyPressCompletesAWait : Prop :=
  ∀ (s : State) (k : Nibble) (b : Bool) (ts : List Turn), s.schedule = .keyChange k b :: ts →
    ∃ t, step s = .next t ∧ t.schedule = ts ∧ (∀ j, t.keyDown j = if j = k then b else s.keyDown j) ∧
      (∀ x, s.run = .waitKey x → b = true → s.keyDown k = false →
        (t.reg x).toNat = k.toNat ∧ t.pc = s.pc + 2 ∧ t.run = .running ∧
        KeepsAllBut s t [.keys, .schedule, .pc, .run] [x]) ∧
      ((¬∃ x, s.run = .waitKey x ∧ b = true ∧ s.keyDown k = false) → KeepsAllBut s t [.keys, .schedule] [])

/-- LoadRom copies the bytes to 0x200 up and records their number; a read failure or a ROM over 3584 bytes is reported
and changes nothing the spec names; a load that is not enabled is refused with no effect (R231; the spec's decisions D26,
D27). The flag `loadFailed`, and that a load may be tried again after a failed one, are the model's (assumption 13), as
are the schedule and the flag `loaded` (assumptions 2, 5). -/
def Obligations.LoadRomCopiesTheProgram : Prop :=
  ∀ (s : State) (r : LoadResult) (ts : List Turn), s.schedule = .loadRom r :: ts →
    ((s.run ≠ .idle ∨ s.loaded = true) → step s = .next { s with schedule := ts }) ∧
    (s.run = .idle → s.loaded = false →
      (r = .readFailure →
        step s = .next { s with schedule := ts, loadFailed := true, outputs := .loadFailed .unreadable :: s.outputs }) ∧
      (∀ rom, r = .bytes rom → 3584 < rom.length →
        step s = .next { s with schedule := ts, loadFailed := true, outputs := .loadFailed .tooLarge :: s.outputs }) ∧
      (∀ rom, r = .bytes rom → rom.length ≤ 3584 → s.mem.wf = true →
        ∃ t, step s = .next t ∧ (∀ j (h : j < rom.length), t.peek (0x200 + j) = rom[j]) ∧
          t.romSize = rom.length ∧ t.loaded = true ∧ t.schedule = ts ∧
          Keeps s t [.rom, .schedule] [] 0x200 rom.length))

/-- AFTER A FAILED LOAD THE ENGINE IS NEVER STARTED: "`run` stays `Idle` for ever" (R231, E7; the spec's decision D27),
whatever steps of whatever agents follow, a good load and a start among them. That the words hold also where R231's guard
lets a later load succeed is the model's reading (assumption 13); the schedule is the model's (assumption 2). -/
def Obligations.AFailedLoadNeverStarts : Prop :=
  ∀ (s : State) (r : LoadResult) (ts : List Turn), s.run = .idle → s.loaded = false → s.schedule = .loadRom r :: ts →
    (r = .readFailure ∨ ∃ rom, r = .bytes rom ∧ 3584 < rom.length) →
      ∃ t, Host.Core.run Sys2Proof.core (ts.length + 1) s = .next t ∧ t.schedule = [] ∧ t.run = .idle

/-- Start runs a loaded block that has not been started and whose loads have not failed, and Stop ends a run, keeping
everything else; each is without effect otherwise (the host's table of R213, its Start and Stop rows; R231; E8). That a
failed load bars Start also after a good one is the model's reading (assumption 13). -/
def Obligations.StartAndStopSetTheRunState : Prop :=
  ∀ (s : State) (ts : List Turn),
    (s.schedule = .start :: ts →
      (s.run = .idle → s.loaded = true → s.loadFailed = false →
        step s = .next { s with schedule := ts, run := .running }) ∧
      ((s.run ≠ .idle ∨ s.loaded = false ∨ s.loadFailed = true) → step s = .next { s with schedule := ts })) ∧
    (s.schedule = .stop :: ts →
      ((s.run = .running ∨ ∃ x, s.run = .waitKey x) → step s = .next { s with schedule := ts, run := .stopped }) ∧
      ((s.run = .idle ∨ s.run = .stopped ∨ ∃ f, s.run = .faulted f) → step s = .next { s with schedule := ts }))

/-- R211: the sound status output is `ST != 0`, and the host observes it. -/
def Obligations.SoundActiveFollowsTheSoundTimer : Prop :=
  ∀ s : State, (s.soundActive = true ↔ s.st.toNat ≠ 0) ∧ s.observe.soundActive = s.soundActive

/-- R36: the reset values (all but the memory contents and `pc` are the spec's decisions D19, D29, D30; the font bytes
are FONT_TABLE at its default, D20). -/
def Obligations.ResetHoldsTheValuesOfTheSpec : Prop :=
  (∀ r, State.reset.reg r = 0) ∧ State.reset.i = 0 ∧ State.reset.pc = 0x200 ∧ State.reset.sp = 0 ∧
  (∀ k : Fin 16, State.reset.stack[k] = 0) ∧ State.reset.dt = 0 ∧ State.reset.st = 0 ∧
  (∀ r c, State.reset.fb.get r c = false) ∧
  (∀ a (h : a < Config.fontTable.length), State.reset.peek a = Config.fontTable[a]) ∧ Config.fontTable.length = 0x50 ∧
  (∀ a, 0x50 ≤ a → State.reset.peek a = 0) ∧
  State.reset.romSize = 0 ∧ State.reset.run = .idle ∧ State.reset.fault = none ∧
  (∀ k, State.reset.keyDown k = false) ∧ State.reset.soundActive = false

/-- Construction with any 80-byte FONT_TABLE holds it at 0x000 up and is otherwise the reset state, and a ROM load leaves
it (R52, R230; S8). FONT_TABLE is a parameter (the spec's decision D20; assumption 1). -/
def Obligations.ConstructionWritesTheFontBeforeTheRom : Prop :=
  State.construct Config.fontTable = State.reset ∧
  ∀ font : List Byte, ∀ hf : font.length = 80,
    (State.construct font).mem.wf = true ∧ Keeps State.reset (State.construct font) [] [] 0 80 ∧
    (∀ a (h : a < 80), (State.construct font).peek a = font[a]) ∧
    (∀ rom a (h : a < 80), (loadRom (.bytes rom) (State.construct font)).peek a = font[a])

/-- From reset, a load of two bytes or more and a start lead in two steps to a running engine whose first fetch is the
ROM's first word, at 0x200 (R230, R232; assumption 4). -/
def Obligations.BootRunsTheRomFrom0x200 : Prop :=
  ∀ (rom : List Byte) (h : 2 ≤ rom.length), rom.length ≤ 3584 → ∀ ts,
    ∃ t, Host.Core.run Sys2Proof.core 2 { State.reset with schedule := .loadRom (.bytes rom) :: .start :: ts } = .next t ∧
      t.run = .running ∧ t.pc = 0x200 ∧ t.fetch = .word (wordOfBytes rom[0] rom[1]) ∧ t.schedule = ts

/-- The invariant holds after reset. -/
def Obligations.InvariantHoldsAtReset : Prop := Inv State.reset

/-- EVERY STEP KEEPS THE INVARIANT: memory stays canonical, `pc` at most 0x10FE (R23), stack entries at most 0x1000
(R112), the fault record is there exactly in `Faulted`, sound and reported once (R31, R201, R202, R220), a wait only
at a fetched instruction, the ROM fits (R231), nothing runs before a load (R213) or after a failed one
(R231; assumption 13). -/
def Obligations.EveryStepKeepsTheInvariant : Prop :=
  ∀ s t : State, Inv s → step s = .next t → Inv t

/-- In `Stopped` and `Faulted` no step of any agent changes anything but the keypad; the fault record is never cleared
(R203, and R30 for `Stopped`). That the step completes whichever turn is scheduled is the model's choice: a turn that is
not enabled passes (assumption 2). -/
def Obligations.FinalStatesStayFinal : Prop :=
  ∀ (s : State) (turn : Turn) (ts : List Turn), (s.run = .stopped ∨ ∃ f, s.run = .faulted f) → s.schedule = turn :: ts →
    ∃ t, step s = .next t ∧ t.schedule = ts ∧ KeepsAllBut s t [.keys, .schedule] []

/-- Only a key going down (R218), or a host Stop (R163, R213), ends a wait; every register, the memory, the framebuffer
and the stack survive it, apart from the timers; the completion writes `V[x]`, `pc` and `run` (R164; the spec's decision
D16). That the turns of the engine, LoadRom and Start, which are not enabled in a wait, pass is the model's choice
(assumption 2). -/
def Obligations.OnlyAKeyPressOrStopEndsAWait : Prop :=
  ∀ (s : State) (x : Nibble) (turn : Turn) (ts : List Turn), s.run = .waitKey x → s.schedule = turn :: ts →
    ∃ t, step s = .next t ∧
      (turn ≠ .stop → (∀ k, turn = .keyChange k true → s.keyDown k = true) →
        t.run = .waitKey x ∧ KeepsAllBut s t [.dt, .st, .keys, .schedule] []) ∧
      (turn = .stop → t.run = .stopped ∧ KeepsAllBut s t [.run, .schedule] []) ∧
      (∀ k, turn = .keyChange k true → s.keyDown k = false →
        t.run = .running ∧ KeepsAllBut s t [.pc, .run, .keys, .schedule] [x])

/-- A load-delay-from-reg of `v`, then `k` ticks, then a load-delay-to-reg reads `max(v - k, 0)` (R236, which the spec
derives from R206 and R212). -/
def Obligations.DelayTimerReadsWhatTheTicksLeft : Prop :=
  ∀ (s : State) (x y : Nibble) (k : Nat) (ts : List Turn), s.run = .running →
    ∃ t u v, exec (.ldDTVx x) s = .next t ∧
      Host.Core.run Sys2Proof.core k { t with schedule := List.replicate k .tick ++ ts } = .next u ∧
      u.schedule = ts ∧ exec (.ldVxDT y) u = .next v ∧ (v.reg y).toNat = (s.reg x).toNat - k

/-- At a self-jump the engine, alone, goes on for ever with no change of state (R111's corner case; end point (c) of
R219, the spec's decision D32). -/
def Obligations.SelfJumpLoopsWithNoChange : Prop :=
  ∀ s : State, AtSelfJump s → s.schedule = [] → ∀ k, Host.Core.run Sys2Proof.core k s = .next s

/-- Self-modifying code takes effect at once: after a store-regs or a store-bcd, a fetch from two bytes it stored reads
them (R65, R235; the spec's decision D24). -/
def Obligations.StoredWordsAreFetched : Prop :=
  ∀ (s : State) (x : Nibble), s.mem.wf = true →
    (InRange s.i.toNat (x.toNat + 1) → ∃ t, exec (.stRegs x) s = .next t ∧
      ∀ r r' : Nibble, r.toNat + 1 = r'.toNat → r'.toNat ≤ x.toNat → t.pc.toNat = s.i.toNat + r.toNat →
        t.fetch = .word (wordOfBytes (s.reg r) (s.reg r'))) ∧
    (InRange s.i.toNat 3 → ∃ t, exec (.ldB x) s = .next t ∧
      let v := (s.reg x).toNat
      (t.pc.toNat = s.i.toNat →
        t.fetch = .word (wordOfBytes (BitVec.ofNat 8 (v / 100)) (BitVec.ofNat 8 (v / 10 % 10)))) ∧
      (t.pc.toNat = s.i.toNat + 1 →
        t.fetch = .word (wordOfBytes (BitVec.ofNat 8 (v / 10 % 10)) (BitVec.ofNat 8 (v % 10)))))

/-! ## Display -/

/-- R100: every pixel clear, one Repaint of it, `pc + 2`, nothing else (the spec's decision D25). -/
def Obligations.ClearScreenClearsAndRepaints : Prop :=
  ∀ (s : State) (ign : Nibble), InRow (.cls ign) 0xF0FF 0x00E0 ∧
    ∃ t, exec (.cls ign) s = .next t ∧ (∀ r c, t.fb.get r c = false) ∧ t.outputs = .repaint t.fb :: s.outputs ∧
      t.pc = s.pc + 2 ∧ KeepsAllBut s t [.fb, .outputs, .pc] []

/-- R101: with `V[x]`, `V[y]`, `I` as they are before the draw, the pixel of bit `i` of sprite row `j` is XORed with that
bit, wrapping; every other pixel stays; VF is 1 exactly if a set pixel was cleared, else 0; one Repaint; and a sprite byte
that does not exist is a fault with no effect, at the lowest such address (the spec's decisions D6, D12, D13, D25). -/
def Obligations.DrawXorsTheSprite : Prop :=
  ∀ (s : State) (x y n : Nibble), InRow (.drw x y n) 0xF000 0xD000 ∧
    (∀ a, LowestBeyond s.i.toNat n.toNat a → FaultsWith (.drw x y n) s (.memOutOfBounds a .read)) ∧
    (InRange s.i.toNat n.toNat →
      ∃ t, exec (.drw x y n) s = .next t ∧
        (∀ j < n.toNat, ∀ i < 8,
          t.fb.get (spriteRow (s.reg y).toNat j) (spriteCol (s.reg x).toNat i) =
            (s.fb.get (spriteRow (s.reg y).toNat j) (spriteCol (s.reg x).toNat i) ^^
              (s.peek (s.i.toNat + j)).getLsbD i)) ∧
        (∀ r c, (∀ j < n.toNat, ∀ i < 8,
          ¬(r = spriteRow (s.reg y).toNat j ∧ c = spriteCol (s.reg x).toNat i)) → t.fb.get r c = s.fb.get r c) ∧
        (t.reg VF = 0 ∨ t.reg VF = 1) ∧
        (t.reg VF = 1 ↔ ∃ j < n.toNat, ∃ i < 8,
          s.fb.get (spriteRow (s.reg y).toNat j) (spriteCol (s.reg x).toNat i) = true ∧
          (s.peek (s.i.toNat + j)).getLsbD i = true) ∧
        t.outputs = .repaint t.fb :: s.outputs ∧ t.pc = s.pc + 2 ∧ KeepsAllBut s t [.fb, .outputs, .pc] [VF])

/-- R102, which the spec derives from R100 and R101: the same sprite drawn twice at the same place restores every pixel;
and over a clear target area the first draw leaves VF 0, and the second leaves it 1 exactly if the sprite has a set bit. -/
def Obligations.DrawTwiceRestoresEveryPixel : Prop :=
  ∀ (s : State) (x y n : Nibble), InRange s.i.toNat n.toNat →
    ∃ t, exec (.drw x y n) s = .next t ∧
      ∀ x' y', t.reg x' = s.reg x → t.reg y' = s.reg y →
        ∃ u, exec (.drw x' y' n) t = .next u ∧ u.fb = s.fb ∧
          ((∀ j < n.toNat, ∀ i < 8,
            s.fb.get (spriteRow (s.reg y).toNat j) (spriteCol (s.reg x).toNat i) = false) →
            t.reg VF = 0 ∧
            (u.reg VF = 1 ↔ ∃ j < n.toNat, ∃ i < 8, (s.peek (s.i.toNat + j)).getLsbD i = true))

/-! ## Control transfer and skips -/

/-- R110: `sp - 1`, and `pc` from the entry it then counts to, which keeps its value; with no frame, StackUnderflow
(the spec's decisions D9, D10). -/
def Obligations.ReturnPopsTheStack : Prop :=
  ∀ (s : State) (ign : Nibble), InRow (.ret ign) 0xF0FF 0x00EE ∧
    (s.sp = 0 → FaultsWith (.ret ign) s .stackUnderflow) ∧
    (∀ k : Fin 16, s.sp.val = k.val + 1 →
      ∃ t, exec (.ret ign) s = .next t ∧ t.sp.val = k.val ∧ t.pc = s.stack[k] ∧ t.stack = s.stack ∧
        KeepsAllBut s t [.frames, .pc] [])

/-- R111: `pc` is the zero-extended `nnn`, whatever it is (the spec's decision D5). -/
def Obligations.JumpSetsPc : Prop :=
  ∀ (s : State) (nnn : Addr), InRow (.jp nnn) 0xF000 0x1000 ∧
    ∃ t, exec (.jp nnn) s = .next t ∧ t.pc.toNat = nnn.toNat ∧ KeepsAllBut s t [.pc] []

/-- R112: the address after the call goes to `stack[sp]`, then `sp + 1` and `pc` is `nnn`; with all 16 frames used,
StackOverflow (the spec's decisions D4, D8). -/
def Obligations.CallPushesTheReturnAddress : Prop :=
  ∀ (s : State) (nnn : Addr), InRow (.call nnn) 0xF000 0x2000 ∧
    (s.sp = 16 → FaultsWith (.call nnn) s .stackOverflow) ∧
    (∀ k : Fin 16, s.sp.val = k.val →
      ∃ t, exec (.call nnn) s = .next t ∧ t.stack[k] = s.pc + 2 ∧ (∀ j : Fin 16, j ≠ k → t.stack[j] = s.stack[j]) ∧
        t.sp.val = k.val + 1 ∧ t.pc.toNat = nnn.toNat ∧ KeepsAllBut s t [.frames, .pc] [])

/-- A call and then a return resume at the instruction after the call with `sp` as before it, whatever ran between them
that left `sp` and that frame alone (R81, R110, R112; S10; the spec's decision D4). -/
def Obligations.CallThenReturnResumes : Prop :=
  ∀ (s : State) (nnn : Addr) (ign : Nibble), s.sp.val < 16 →
    ∃ t, exec (.call nnn) s = .next t ∧
      ∀ u : State, u.sp = t.sp → (∀ k : Fin 16, k.val = s.sp.val → u.stack[k] = t.stack[k]) →
        ∃ v, exec (.ret ign) u = .next v ∧ v.pc = s.pc + 2 ∧ v.sp = s.sp

/-- R113, R114: `pc + 4` when `V[x]` equals `kk` (for SNE: differs from it), else `pc + 2`. -/
def Obligations.ImmediateSkipsCompare : Prop :=
  ∀ (s : State) (x : Nibble) (kk : Byte),
    (InRow (.seImm x kk) 0xF000 0x3000 ∧ ∃ t, exec (.seImm x kk) s = .next t ∧
      t.pc = (if s.reg x = kk then s.pc + 4 else s.pc + 2) ∧ KeepsAllBut s t [.pc] []) ∧
    (InRow (.sneImm x kk) 0xF000 0x4000 ∧ ∃ t, exec (.sneImm x kk) s = .next t ∧
      t.pc = (if s.reg x ≠ kk then s.pc + 4 else s.pc + 2) ∧ KeepsAllBut s t [.pc] [])

/-- R115, R116: `pc + 4` when `V[x]` equals `V[y]` (for SNE: differs from it), else `pc + 2`; `n` is ignored. -/
def Obligations.RegisterSkipsCompare : Prop :=
  ∀ (s : State) (x y ign : Nibble),
    (InRow (.seReg x y ign) 0xF000 0x5000 ∧ ∃ t, exec (.seReg x y ign) s = .next t ∧
      t.pc = (if s.reg x = s.reg y then s.pc + 4 else s.pc + 2) ∧ KeepsAllBut s t [.pc] []) ∧
    (InRow (.sneReg x y ign) 0xF000 0x9000 ∧ ∃ t, exec (.sneReg x y ign) s = .next t ∧
      t.pc = (if s.reg x ≠ s.reg y then s.pc + 4 else s.pc + 2) ∧ KeepsAllBut s t [.pc] [])

/-- R117: the target is the exact sum `nnn + V[0]`, not reduced (the spec's decisions D5, D7). -/
def Obligations.JumpAddIsNotReduced : Prop :=
  ∀ (s : State) (nnn : Addr), InRow (.jpV0 nnn) 0xF000 0xB000 ∧
    ∃ t, exec (.jpV0 nnn) s = .next t ∧ t.pc.toNat = nnn.toNat + (s.reg 0).toNat ∧ KeepsAllBut s t [.pc] []

/-! ## ALU -/

/-- R121, R123: the register gets the byte, or the other register's value. -/
def Obligations.LoadsWriteOneRegister : Prop :=
  ∀ (s : State) (x y : Nibble) (kk : Byte),
    (InRow (.ldImm x kk) 0xF000 0x6000 ∧ ∃ t, exec (.ldImm x kk) s = .next t ∧ t.reg x = kk ∧ t.pc = s.pc + 2 ∧
      KeepsAllBut s t [.pc] [x]) ∧
    (InRow (.ldReg x y) 0xF00F 0x8000 ∧ ∃ t, exec (.ldReg x y) s = .next t ∧ t.reg x = s.reg y ∧ t.pc = s.pc + 2 ∧
      KeepsAllBut s t [.pc] [x])

/-- R122: the sum modulo 256, and no flag: VF is unchanged unless it is `V[x]`. -/
def Obligations.AddImmediateWrapsWithoutFlag : Prop :=
  ∀ (s : State) (x : Nibble) (kk : Byte), InRow (.addImm x kk) 0xF000 0x7000 ∧
    ∃ t, exec (.addImm x kk) s = .next t ∧ (t.reg x).toNat = ((s.reg x).toNat + kk.toNat) % 256 ∧ t.pc = s.pc + 2 ∧
      KeepsAllBut s t [.pc] [x]

/-- R124, R125, R126: bit by bit OR, AND, XOR into `V[x]`; VF is not reset. -/
def Obligations.LogicCombinesBitsWithoutFlag : Prop :=
  ∀ (s : State) (x y : Nibble),
    (InRow (.orReg x y) 0xF00F 0x8001 ∧ ∃ t, exec (.orReg x y) s = .next t ∧
      (∀ b < 8, (t.reg x).getLsbD b = ((s.reg x).getLsbD b || (s.reg y).getLsbD b)) ∧ t.pc = s.pc + 2 ∧
      KeepsAllBut s t [.pc] [x]) ∧
    (InRow (.andReg x y) 0xF00F 0x8002 ∧ ∃ t, exec (.andReg x y) s = .next t ∧
      (∀ b < 8, (t.reg x).getLsbD b = ((s.reg x).getLsbD b && (s.reg y).getLsbD b)) ∧ t.pc = s.pc + 2 ∧
      KeepsAllBut s t [.pc] [x]) ∧
    (InRow (.xorReg x y) 0xF00F 0x8003 ∧ ∃ t, exec (.xorReg x y) s = .next t ∧
      (∀ b < 8, (t.reg x).getLsbD b = ((s.reg x).getLsbD b ^^ (s.reg y).getLsbD b)) ∧ t.pc = s.pc + 2 ∧
      KeepsAllBut s t [.pc] [x])

/-- R127: the sum modulo 256 into `V[x]` and the carry into VF; where `x` is 15 the sum is written last (the spec's
decision D2). -/
def Obligations.AddRegisterSetsCarry : Prop :=
  ∀ (s : State) (x y : Nibble), InRow (.addReg x y) 0xF00F 0x8004 ∧
    ∃ t, exec (.addReg x y) s = .next t ∧
      (t.reg x).toNat = ((s.reg x).toNat + (s.reg y).toNat) % 256 ∧
      (x ≠ VF → (t.reg VF).toNat = if (s.reg x).toNat + (s.reg y).toNat > 255 then 1 else 0) ∧
      t.pc = s.pc + 2 ∧ KeepsAllBut s t [.pc] [x, VF]

/-- R128: the no-borrow into VF, then the difference of the registers as they then stand: where `x` or `y` is 15 the new
flag is the operand (the spec's decision D2). -/
def Obligations.SubtractRegisterSetsNoBorrow : Prop :=
  ∀ (s : State) (x y : Nibble), InRow (.subReg x y) 0xF00F 0x8005 ∧
    ∃ t, exec (.subReg x y) s = .next t ∧
      (let a := (s.reg x).toNat
       let b := (s.reg y).toNat
       let f := if a ≥ b then 1 else 0
       (x ≠ VF → y ≠ VF → (t.reg x).toNat = (a + 256 - b) % 256 ∧ (t.reg VF).toNat = f) ∧
       (x ≠ VF → y = VF → (t.reg x).toNat = (a + 256 - f) % 256 ∧ (t.reg VF).toNat = f) ∧
       (x = VF → y ≠ VF → (t.reg VF).toNat = (f + 256 - b) % 256) ∧
       (x = VF → y = VF → (t.reg VF).toNat = 0)) ∧
      t.pc = s.pc + 2 ∧ KeepsAllBut s t [.pc] [x, VF]

/-- R129: half of `V[x]` and the bit shifted out into VF; where `x` is 15, VF ends 0; the y field is ignored (the spec's
decision D2). -/
def Obligations.ShiftRightHalves : Prop :=
  ∀ (s : State) (x ign : Nibble), InRow (.shr x ign) 0xF00F 0x8006 ∧
    ∃ t, exec (.shr x ign) s = .next t ∧
      (x ≠ VF → (t.reg x).toNat = (s.reg x).toNat / 2 ∧ (t.reg VF).toNat = (s.reg x).toNat % 2) ∧
      (x = VF → (t.reg VF).toNat = 0) ∧ t.pc = s.pc + 2 ∧ KeepsAllBut s t [.pc] [x, VF]

/-- R130: as sub-reg with minuend `V[y]` and subtrahend `V[x]` (the spec's decision D2). -/
def Obligations.ReverseSubtractSetsNoBorrow : Prop :=
  ∀ (s : State) (x y : Nibble), InRow (.subnReg x y) 0xF00F 0x8007 ∧
    ∃ t, exec (.subnReg x y) s = .next t ∧
      (let a := (s.reg x).toNat
       let b := (s.reg y).toNat
       let f := if b ≥ a then 1 else 0
       (x ≠ VF → y ≠ VF → (t.reg x).toNat = (b + 256 - a) % 256 ∧ (t.reg VF).toNat = f) ∧
       (x ≠ VF → y = VF → (t.reg x).toNat = (f + 256 - a) % 256 ∧ (t.reg VF).toNat = f) ∧
       (x = VF → y ≠ VF → (t.reg VF).toNat = (b + 256 - f) % 256) ∧
       (x = VF → y = VF → (t.reg VF).toNat = 0)) ∧
      t.pc = s.pc + 2 ∧ KeepsAllBut s t [.pc] [x, VF]

/-- R131: twice `V[x]` modulo 256 and the bit shifted out into VF; where `x` is 15, VF ends as twice that bit; the y field
is ignored (the spec's decision D2). -/
def Obligations.ShiftLeftDoubles : Prop :=
  ∀ (s : State) (x ign : Nibble), InRow (.shl x ign) 0xF00F 0x800E ∧
    ∃ t, exec (.shl x ign) s = .next t ∧
      (x ≠ VF → (t.reg x).toNat = (s.reg x).toNat * 2 % 256 ∧ (t.reg VF).toNat = (s.reg x).toNat / 128) ∧
      (x = VF → (t.reg VF).toNat = 2 * ((s.reg x).toNat / 128)) ∧ t.pc = s.pc + 2 ∧ KeepsAllBut s t [.pc] [x, VF]

/-- R132: `V[x]` is the next draw of the random source masked with `kk`, whatever the draw is; every draw can come; the
draw is used up (R208; the spec's decision D18). How State holds the draws is the model's own (assumption 3). -/
def Obligations.RandomMasksAFreshDraw : Prop :=
  ∀ (s : State) (x : Nibble) (kk : Byte), InRow (.rnd x kk) 0xF000 0xC000 ∧
    (∃ t, exec (.rnd x kk) s = .next t ∧ t.reg x = s.randomByte &&& kk ∧
      (∀ b < 8, kk.getLsbD b = false → (t.reg x).getLsbD b = false) ∧
      t.randomIn = s.randomIn.tail ∧ t.randomCount = s.randomCount + 1 ∧ t.pc = s.pc + 2 ∧
      KeepsAllBut s t [.pc, .random] [x]) ∧
    (∀ r : Byte, ∃ t, exec (.rnd x kk) { s with randomIn := r :: s.randomIn } = .next t ∧ t.reg x = r &&& kk)

/-! ## The address register and memory -/

/-- R140: `I` is the zero-extended `nnn`. -/
def Obligations.LoadAddressSetsI : Prop :=
  ∀ (s : State) (nnn : Addr), InRow (.ldI nnn) 0xF000 0xA000 ∧
    ∃ t, exec (.ldI nnn) s = .next t ∧ t.i.toNat = nnn.toNat ∧ t.pc = s.pc + 2 ∧ KeepsAllBut s t [.i, .pc] []

/-- R141: `I + V[x]` modulo 2^16; VF is unchanged (the spec's decision D11). -/
def Obligations.AddToAddressWrapsWithoutFlag : Prop :=
  ∀ (s : State) (x : Nibble), InRow (.addI x) 0xF0FF 0xF01E ∧
    ∃ t, exec (.addI x) s = .next t ∧ t.i.toNat = (s.i.toNat + (s.reg x).toNat) % 65536 ∧ t.pc = s.pc + 2 ∧
      KeepsAllBut s t [.i, .pc] []

/-- R142: `I` is 5 times `V[x]`, not masked: the address of the glyph for a digit, past the font for 16 and more. -/
def Obligations.FontAddressIsFiveTimesTheDigit : Prop :=
  ∀ (s : State) (x : Nibble), InRow (.ldF x) 0xF0FF 0xF029 ∧
    ∃ t, exec (.ldF x) s = .next t ∧ t.i.toNat = 5 * (s.reg x).toNat ∧ t.pc = s.pc + 2 ∧ KeepsAllBut s t [.i, .pc] []

/-- R143: the three decimal digits of `V[x]` at I, I+1, I+2, no other byte; an address that does not exist is a fault at
the lowest such address with nothing written (the spec's decision D6). -/
def Obligations.StoreBcdWritesThreeDigits : Prop :=
  ∀ (s : State) (x : Nibble), InRow (.ldB x) 0xF0FF 0xF033 ∧
    (∀ a, LowestBeyond s.i.toNat 3 a → FaultsWith (.ldB x) s (.memOutOfBounds a .write)) ∧
    (InRange s.i.toNat 3 → s.mem.wf = true →
      ∃ t, exec (.ldB x) s = .next t ∧ (t.peek s.i.toNat).toNat = (s.reg x).toNat / 100 ∧
        (t.peek (s.i.toNat + 1)).toNat = (s.reg x).toNat / 10 % 10 ∧
        (t.peek (s.i.toNat + 2)).toNat = (s.reg x).toNat % 10 ∧ t.pc = s.pc + 2 ∧
        Keeps s t [.pc] [] s.i.toNat 3)

/-- R144: `V[0]` to `V[x]` at I up, no other byte; an address that does not exist is a fault at the lowest such address
with nothing written; I is unchanged (the spec's decisions D3, D6). -/
def Obligations.StoreRegistersWritesTheRange : Prop :=
  ∀ (s : State) (x : Nibble), InRow (.stRegs x) 0xF0FF 0xF055 ∧
    (∀ a, LowestBeyond s.i.toNat (x.toNat + 1) a → FaultsWith (.stRegs x) s (.memOutOfBounds a .write)) ∧
    (InRange s.i.toNat (x.toNat + 1) → s.mem.wf = true →
      ∃ t, exec (.stRegs x) s = .next t ∧ (∀ r : Nibble, r.toNat ≤ x.toNat → t.peek (s.i.toNat + r.toNat) = s.reg r) ∧
        t.pc = s.pc + 2 ∧ Keeps s t [.pc] [] s.i.toNat (x.toNat + 1))

/-- R145: `V[0]` to `V[x]` from I up, no other register; an address that does not exist is a fault at the lowest such
address with no register written; I is unchanged (the spec's decisions D3, D6). -/
def Obligations.LoadRegistersReadsTheRange : Prop :=
  ∀ (s : State) (x : Nibble), InRow (.ldRegs x) 0xF0FF 0xF065 ∧
    (∀ a, LowestBeyond s.i.toNat (x.toNat + 1) a → FaultsWith (.ldRegs x) s (.memOutOfBounds a .read)) ∧
    (InRange s.i.toNat (x.toNat + 1) →
      ∃ t, exec (.ldRegs x) s = .next t ∧ (∀ r : Nibble, r.toNat ≤ x.toNat → t.reg r = s.peek (s.i.toNat + r.toNat)) ∧
        (∀ r : Nibble, x.toNat < r.toNat → t.reg r = s.reg r) ∧ t.pc = s.pc + 2 ∧
        KeepsAllBut s t [.pc] (Instr.ldRegs x).destRegs)

/-- What store-regs wrote, load-regs through the same I reads back, whatever the registers held meanwhile (R144, R145). -/
def Obligations.StoreThenLoadRegistersRestores : Prop :=
  ∀ (s : State) (x : Nibble), InRange s.i.toNat (x.toNat + 1) → s.mem.wf = true →
    ∃ t, exec (.stRegs x) s = .next t ∧
      ∀ u : State, u.i = t.i → u.mem = t.mem →
        ∃ v, exec (.ldRegs x) u = .next v ∧ ∀ r : Nibble, r.toNat ≤ x.toNat → v.reg r = s.reg r

/-! ## Keys and timers -/

/-- R160, R161: a poll of the key `V[x]`: SKP skips if it is down, SKNP if it is up; a `V[x]` of 16 or more is
KeyOutOfRange (the spec's decisions D14, D15). -/
def Obligations.KeySkipsPollTheKey : Prop :=
  ∀ (s : State) (x : Nibble), InRow (.skp x) 0xF0FF 0xE09E ∧ InRow (.sknp x) 0xF0FF 0xE0A1 ∧
    (16 ≤ (s.reg x).toNat →
      FaultsWith (.skp x) s (.keyOutOfRange (s.reg x)) ∧ FaultsWith (.sknp x) s (.keyOutOfRange (s.reg x))) ∧
    (∀ k : Nibble, (s.reg x).toNat = k.toNat →
      (∃ t, exec (.skp x) s = .next t ∧ t.pc = (if s.keyDown k = true then s.pc + 4 else s.pc + 2) ∧
        KeepsAllBut s t [.pc] []) ∧
      (∃ t, exec (.sknp x) s = .next t ∧ t.pc = (if s.keyDown k = false then s.pc + 4 else s.pc + 2) ∧
        KeepsAllBut s t [.pc] []))

/-- R162, R165, R166: the delay timer to a register, a register to the delay timer, a register to the sound timer. -/
def Obligations.TimerMovesCopyAByte : Prop :=
  ∀ (s : State) (x : Nibble),
    (InRow (.ldVxDT x) 0xF0FF 0xF007 ∧ ∃ t, exec (.ldVxDT x) s = .next t ∧ t.reg x = s.dt ∧ t.pc = s.pc + 2 ∧
      KeepsAllBut s t [.pc] [x]) ∧
    (InRow (.ldDTVx x) 0xF0FF 0xF015 ∧ ∃ t, exec (.ldDTVx x) s = .next t ∧ t.dt = s.reg x ∧ t.pc = s.pc + 2 ∧
      KeepsAllBut s t [.dt, .pc] []) ∧
    (InRow (.ldSTVx x) 0xF0FF 0xF018 ∧ ∃ t, exec (.ldSTVx x) s = .next t ∧ t.st = s.reg x ∧
      (t.soundActive = true ↔ s.reg x ≠ 0) ∧ t.pc = s.pc + 2 ∧ KeepsAllBut s t [.st, .pc] [])

/-- R163: load-key-blocking suspends the engine at its own address with `V[x]` unwritten, whatever keys are down (the
spec's decisions D16, D29). -/
def Obligations.KeyWaitSuspendsTheEngine : Prop :=
  ∀ (s : State) (x : Nibble), InRow (.ldVxK x) 0xF0FF 0xF00A ∧
    ∃ t, exec (.ldVxK x) s = .next t ∧ t.run = .waitKey x ∧ KeepsAllBut s t [.run] []

/-! ## All instructions at once -/

/-- R202: where an instruction meets the condition of one of its faults, or the fetch of a running engine meets an address
that does not exist, none of the writes has happened: the record, the run state and the report are all that changes, and
the record holds the address of the instruction and its word, which a fetch fault has not (the spec's decisions D6, D30,
D31). -/
def Obligations.FaultsArePrecise : Prop :=
  (∀ (i : Instr) (s : State) (info : FaultInfo), i.faultIn s = some info → FaultsWith i s info) ∧
  (∀ s : State, s.run = .running → s.schedule = [] → 4096 ≤ s.pc.toNat + 1 →
    step s = .next (s.faulted (.memOutOfBounds (max s.pc.toNat 4096) .fetch) none))

/-- THE ACCESS MATRIX HOLDS: where an instruction meets no fault condition it completes, and whatever its row of the
matrix does not mark as written is unchanged (R9, R35, R59; the matrix is derived by the spec). -/
def Obligations.EveryInstructionKeepsWhatItsRowDoesNotWrite : Prop :=
  ∀ (i : Instr) (s : State), s.mem.wf = true → i.faultIn s = none →
    ∃ t, exec i s = .next t ∧ Keeps s t i.destPieces i.destRegs s.i.toNat i.storeLen

/-- No instruction reads ST (R27): from two states that differ only in ST, every instruction leads to two states that
differ only in ST, and, where it writes ST, to the same state. -/
def Obligations.NoInstructionReadsTheSoundTimer : Prop :=
  ∀ (i : Instr) (s : State) (b : Byte), ∃ t u, exec i s = .next t ∧ exec i { s with st := b } = .next u ∧
    ((∃ x, i = .ldSTVx x) → u = t) ∧ ((∀ x, i ≠ .ldSTVx x) → u = { t with st := b } ∧ t.st = s.st)

/-- R207: clear-screen and draw, when they do not fault, emit exactly one Repaint, of the framebuffer they leave; a
faulting instruction emits its report alone; every other instruction emits nothing (the spec's decision D25). -/
def Obligations.OnlyClearAndDrawRepaint : Prop :=
  ∀ (i : Instr) (s : State), ∃ t, exec i s = .next t ∧
    (∀ info, i.faultIn s = some info → t.outputs = .faultReport ⟨info, s.pc, some (encode i)⟩ :: s.outputs) ∧
    (i.faultIn s = none →
      (((∃ ign, i = .cls ign) ∨ ∃ x y n, i = .drw x y n) → t.outputs = .repaint t.fb :: s.outputs) ∧
      ((∀ ign, i ≠ .cls ign) → (∀ x y n, i ≠ .drw x y n) → t.outputs = s.outputs))

/-- An ignored field has no effect (R83): an instruction and its canonical form lead to the same state, or to the same
fault, whose record alone tells the two words apart. That exception rests on R201, whose record holds the instruction
word, and on the ignored bits that a term keeps (assumption 7). -/
def Obligations.IgnoredFieldsHaveNoEffect : Prop :=
  ∀ (i : Instr) (s : State),
    (i.faultIn s = none → exec i s = exec i.canonical s) ∧
    (∀ info, i.faultIn s = some info → FaultsWith i s info ∧ FaultsWith i.canonical s info)

/-! ## Fair runs

The agents' steps for ever, in any order that is fair (R212). How the model says so, a run as a sequence of states and of
turns that `step` takes, and fairness as a premise about that sequence, is assumption 14; that a turn which is not enabled
passes is assumption 2. -/

/-- A FAIR RUN MAKES PROGRESS, as long as the host does not stop it (R212). A running engine executes the instruction it is
at: until its next step only the timers and the keypad change. A self-jump, once met, is executed for ever, and the ticks
bring the timers to 0, which they then stay (R219, R111; the spec's decision D32). So do they in a key wait in which no key
goes down (R163, R218). -/
def Obligations.FairRunsMakeProgress : Prop :=
  ∀ (state : Nat → State) (turn : Nat → Turn), FairRun state turn → ∀ n, (∀ m, n ≤ m → turn m ≠ .stop) →
    ((state n).run = .running → ∃ m, n ≤ m ∧ KeepsAllBut (state n) (state m) [.dt, .st, .keys, .schedule] [] ∧
      step ((state m).setSchedule []) = .next (state (m + 1))) ∧
    (AtSelfJump (state n) →
      (∀ m, n ≤ m → AtSelfJump (state m) ∧ KeepsAllBut (state n) (state m) [.dt, .st, .keys, .schedule] []) ∧
      ∃ m, n ≤ m ∧ ∀ k, m ≤ k → (state k).dt = 0 ∧ (state k).st = 0) ∧
    (∀ x, (state n).run = .waitKey x → (∀ m k, n ≤ m → turn m = .keyChange k true → (state m).keyDown k = true) →
      (∀ m, n ≤ m → KeepsAllBut (state n) (state m) [.dt, .st, .keys, .schedule] []) ∧
      ∃ m, n ≤ m ∧ ∀ k, m ≤ k → (state k).dt = 0 ∧ (state k).st = 0)

/-- ANY ENABLED STEP MAY COME NEXT, and no ratio of the two rates is promised (R212): every list of turns, from every
state, begins a fair run; and the first `k` steps of every run, fair or not, are the machine's own `k` steps with those
turns scheduled, whatever is scheduled after them. -/
def Obligations.EveryScheduleBeginsAFairRun : Prop :=
  (∀ (s : State) (ts : List Turn), ∃ state turn, FairRun state turn ∧ state 0 = s ∧
    ∀ k (h : k < ts.length), turn k = ts[k]) ∧
  (∀ (state : Nat → State) (turn : Nat → Turn), IsRun state turn → ∀ k ts,
    Host.Core.run Sys2Proof.core k ((state 0).setSchedule ((List.range k).map turn ++ ts)) =
      .next ((state k).setSchedule ts))
end

