-- ==== Sys2Proof/Laws/Encoding.lean ====
section
/-! SUPPORT. The bits and the fields of an encoded word, format by format (R71, R72), and the word memory holds (R57). -/

namespace Sys2Proof

section
variable (op x y n : Nibble) (kk : Byte) (nnn : Addr)

/-! ### Bits -/

theorem encNNN_getLsbD (i : Nat) :
    (encNNN op nnn).getLsbD i = if i < 12 then nnn.getLsbD i else op.getLsbD (i - 12) :=
  BitVec.getLsbD_append (x := op) (y := nnn)

theorem encXKK_getLsbD (i : Nat) :
    (encXKK op x kk).getLsbD i =
      if i < 8 then kk.getLsbD i else if i - 8 < 4 then x.getLsbD (i - 8) else op.getLsbD (i - 8 - 4) := by
  refine (BitVec.getLsbD_append (x := op ++ x) (y := kk)).trans ?_
  rw [show (op ++ x).getLsbD (i - 8) = _ from BitVec.getLsbD_append]

theorem encXYN_eq : encXYN op x y n = encXKK op x (y ++ n) := rfl

theorem nibbles_getLsbD (i : Nat) :
    (y ++ n : BitVec 8).getLsbD i = if i < 4 then n.getLsbD i else y.getLsbD (i - 4) :=
  BitVec.getLsbD_append (x := y) (y := n)

/-! ### Fields -/

@[simp] theorem encNNN_opClass : (encNNN op nnn).opClass = op := by
  refine BitVec.eq_of_getLsbD_eq fun i hi => ?_
  simp only [Word.opClass, BitVec.getLsbD_extractLsb', encNNN_getLsbD]; grind

@[simp] theorem encNNN_nnn : (encNNN op nnn).nnn = nnn := by
  refine BitVec.eq_of_getLsbD_eq fun i hi => ?_
  simp only [Word.nnn, BitVec.getLsbD_extractLsb', encNNN_getLsbD]; grind

@[simp] theorem encXKK_opClass : (encXKK op x kk).opClass = op := by
  refine BitVec.eq_of_getLsbD_eq fun i hi => ?_
  simp only [Word.opClass, BitVec.getLsbD_extractLsb', encXKK_getLsbD]; grind

@[simp] theorem encXKK_x : (encXKK op x kk).x = x := by
  refine BitVec.eq_of_getLsbD_eq fun i hi => ?_
  simp only [Word.x, BitVec.getLsbD_extractLsb', encXKK_getLsbD]; grind

@[simp] theorem encXKK_kk : (encXKK op x kk).kk = kk := by
  refine BitVec.eq_of_getLsbD_eq fun i hi => ?_
  simp only [Word.kk, BitVec.getLsbD_extractLsb', encXKK_getLsbD]; grind

@[simp] theorem encXYN_opClass : (encXYN op x y n).opClass = op := encXKK_opClass op x (y ++ n)

@[simp] theorem encXYN_x : (encXYN op x y n).x = x := encXKK_x op x (y ++ n)

@[simp] theorem encXYN_y : (encXYN op x y n).y = y := by
  refine BitVec.eq_of_getLsbD_eq fun i hi => ?_
  simp only [encXYN_eq, Word.y, BitVec.getLsbD_extractLsb', encXKK_getLsbD, nibbles_getLsbD]; grind

@[simp] theorem encXYN_n : (encXYN op x y n).n = n := by
  refine BitVec.eq_of_getLsbD_eq fun i hi => ?_
  simp only [encXYN_eq, Word.n, BitVec.getLsbD_extractLsb', encXKK_getLsbD, nibbles_getLsbD]; grind

/-! ### A word from its fields -/

theorem encNNN_of_fields (w : Word) : encNNN w.opClass w.nnn = w := by
  refine BitVec.eq_of_getLsbD_eq fun i hi => ?_
  simp only [encNNN_getLsbD, Word.opClass, Word.nnn, BitVec.getLsbD_extractLsb']; grind

theorem encXKK_of_fields (w : Word) : encXKK w.opClass w.x w.kk = w := by
  refine BitVec.eq_of_getLsbD_eq fun i hi => ?_
  simp only [encXKK_getLsbD, Word.opClass, Word.x, Word.kk, BitVec.getLsbD_extractLsb']; grind

theorem encXYN_of_fields (w : Word) : encXYN w.opClass w.x w.y w.n = w := by
  refine BitVec.eq_of_getLsbD_eq fun i hi => ?_
  simp only [encXYN_eq, encXKK_getLsbD, nibbles_getLsbD, Word.opClass, Word.x, Word.y, Word.n,
    BitVec.getLsbD_extractLsb']; grind

/-! ### Under the masks of the opcode map -/

theorem mask_class_getLsbD (i : Nat) : (0xF000 : Word).getLsbD i = (decide (12 ≤ i) && decide (i < 16)) := by
  by_cases h : i < 16
  · revert i; decide
  · simp only [h, decide_false, Bool.and_false]; exact BitVec.getLsbD_of_ge _ _ (by omega)

theorem mask_byte_getLsbD (i : Nat) :
    (0xF0FF : Word).getLsbD i = (decide (i < 8) || (decide (12 ≤ i) && decide (i < 16))) := by
  by_cases h : i < 16
  · revert i; decide
  · rw [BitVec.getLsbD_of_ge _ _ (by omega)]; simp; omega

theorem mask_nibble_getLsbD (i : Nat) :
    (0xF00F : Word).getLsbD i = (decide (i < 4) || (decide (12 ≤ i) && decide (i < 16))) := by
  by_cases h : i < 16
  · revert i; decide
  · rw [BitVec.getLsbD_of_ge _ _ (by omega)]; simp; omega

theorem encNNN_and_class : encNNN op nnn &&& 0xF000 = encNNN op 0 := by
  refine BitVec.eq_of_getLsbD_eq fun i hi => ?_
  rw [BitVec.getLsbD_and, mask_class_getLsbD, encNNN_getLsbD, encNNN_getLsbD]; grind

theorem encXKK_and_class : encXKK op x kk &&& 0xF000 = encXKK op 0 0 := by
  refine BitVec.eq_of_getLsbD_eq fun i hi => ?_
  rw [BitVec.getLsbD_and, mask_class_getLsbD, encXKK_getLsbD, encXKK_getLsbD]; grind

theorem encXKK_and_byte : encXKK op x kk &&& 0xF0FF = encXKK op 0 kk := by
  refine BitVec.eq_of_getLsbD_eq fun i hi => ?_
  rw [BitVec.getLsbD_and, mask_byte_getLsbD, encXKK_getLsbD, encXKK_getLsbD]; grind

theorem encXYN_and_class : encXYN op x y n &&& 0xF000 = encXYN op 0 0 0 := by
  refine (encXKK_and_class op x (y ++ n)).trans rfl

theorem encXYN_and_nibble : encXYN op x y n &&& 0xF00F = encXYN op 0 0 n := by
  refine BitVec.eq_of_getLsbD_eq fun i hi => ?_
  simp only [BitVec.getLsbD_and, mask_nibble_getLsbD, encXYN_eq, encXKK_getLsbD, nibbles_getLsbD]; grind

end

/-- A word is its two bytes. -/
@[simp] theorem wordOfBytes_hi_lo (w : Word) : wordOfBytes w.hi w.lo = w := by
  refine BitVec.eq_of_getLsbD_eq fun i hi => ?_
  rw [show (wordOfBytes w.hi w.lo).getLsbD i = _ from BitVec.getLsbD_append]
  simp only [Word.hi, Word.lo, BitVec.getLsbD_extractLsb']; grind

/-- The decoder is total, and an unknown opcode is reported with its own word (R77, R78). -/
theorem decodeWord_cases (w : Word) : (∃ i, decodeWord w = .instr i) ∨ decodeWord w = .unknownOpcode w := by
  unfold decodeWord decodeClass0 decodeClass8 decodeClassE decodeClassF
  split <;> first | exact .inl ⟨_, rfl⟩ | (split <;> first | exact .inl ⟨_, rfl⟩ | exact .inr rfl)

end Sys2Proof
end

