-- ==== Sys2Proof/Laws/State.lean ====
section
/-! SUPPORT. Each named update of the state, field by field: what it writes and what it leaves. True by `rfl`, so
that no later proof unfolds a record update. -/

namespace Sys2Proof.Machine

section
variable (s : State)

/-! ### setReg -/

@[simp] theorem State.setReg_v (r : Nibble) (b : Byte) : (s.setReg r b).v = s.v.set r.toNat b r.isLt := rfl
@[simp] theorem State.setReg_i (r : Nibble) (b : Byte) : (s.setReg r b).i = s.i := rfl
@[simp] theorem State.setReg_pc (r : Nibble) (b : Byte) : (s.setReg r b).pc = s.pc := rfl
@[simp] theorem State.setReg_sp (r : Nibble) (b : Byte) : (s.setReg r b).sp = s.sp := rfl
@[simp] theorem State.setReg_stack (r : Nibble) (b : Byte) : (s.setReg r b).stack = s.stack := rfl
@[simp] theorem State.setReg_dt (r : Nibble) (b : Byte) : (s.setReg r b).dt = s.dt := rfl
@[simp] theorem State.setReg_st (r : Nibble) (b : Byte) : (s.setReg r b).st = s.st := rfl
@[simp] theorem State.setReg_fb (r : Nibble) (b : Byte) : (s.setReg r b).fb = s.fb := rfl
@[simp] theorem State.setReg_mem (r : Nibble) (b : Byte) : (s.setReg r b).mem = s.mem := rfl
@[simp] theorem State.setReg_keys (r : Nibble) (b : Byte) : (s.setReg r b).keys = s.keys := rfl
@[simp] theorem State.setReg_run (r : Nibble) (b : Byte) : (s.setReg r b).run = s.run := rfl
@[simp] theorem State.setReg_fault (r : Nibble) (b : Byte) : (s.setReg r b).fault = s.fault := rfl
@[simp] theorem State.setReg_romSize (r : Nibble) (b : Byte) : (s.setReg r b).romSize = s.romSize := rfl
@[simp] theorem State.setReg_loaded (r : Nibble) (b : Byte) : (s.setReg r b).loaded = s.loaded := rfl
@[simp] theorem State.setReg_loadFailed (r : Nibble) (b : Byte) : (s.setReg r b).loadFailed = s.loadFailed := rfl
@[simp] theorem State.setReg_outputs (r : Nibble) (b : Byte) : (s.setReg r b).outputs = s.outputs := rfl
@[simp] theorem State.setReg_schedule (r : Nibble) (b : Byte) : (s.setReg r b).schedule = s.schedule := rfl
@[simp] theorem State.setReg_randomIn (r : Nibble) (b : Byte) : (s.setReg r b).randomIn = s.randomIn := rfl
@[simp] theorem State.setReg_randomCount (r : Nibble) (b : Byte) : (s.setReg r b).randomCount = s.randomCount := rfl
@[simp] theorem State.setReg_peek (r : Nibble) (b : Byte) (a : Nat) : (s.setReg r b).peek a = s.peek a := rfl
@[simp] theorem State.setReg_keyDown (r : Nibble) (b : Byte) (j : Nibble) : (s.setReg r b).keyDown j = s.keyDown j := rfl

/-! ### setRegs -/

@[simp] theorem State.setRegs_v (v : Vector Byte 16) : (s.setRegs v).v = v := rfl
@[simp] theorem State.setRegs_i (v : Vector Byte 16) : (s.setRegs v).i = s.i := rfl
@[simp] theorem State.setRegs_pc (v : Vector Byte 16) : (s.setRegs v).pc = s.pc := rfl
@[simp] theorem State.setRegs_sp (v : Vector Byte 16) : (s.setRegs v).sp = s.sp := rfl
@[simp] theorem State.setRegs_stack (v : Vector Byte 16) : (s.setRegs v).stack = s.stack := rfl
@[simp] theorem State.setRegs_dt (v : Vector Byte 16) : (s.setRegs v).dt = s.dt := rfl
@[simp] theorem State.setRegs_st (v : Vector Byte 16) : (s.setRegs v).st = s.st := rfl
@[simp] theorem State.setRegs_fb (v : Vector Byte 16) : (s.setRegs v).fb = s.fb := rfl
@[simp] theorem State.setRegs_mem (v : Vector Byte 16) : (s.setRegs v).mem = s.mem := rfl
@[simp] theorem State.setRegs_keys (v : Vector Byte 16) : (s.setRegs v).keys = s.keys := rfl
@[simp] theorem State.setRegs_run (v : Vector Byte 16) : (s.setRegs v).run = s.run := rfl
@[simp] theorem State.setRegs_fault (v : Vector Byte 16) : (s.setRegs v).fault = s.fault := rfl
@[simp] theorem State.setRegs_romSize (v : Vector Byte 16) : (s.setRegs v).romSize = s.romSize := rfl
@[simp] theorem State.setRegs_loaded (v : Vector Byte 16) : (s.setRegs v).loaded = s.loaded := rfl
@[simp] theorem State.setRegs_loadFailed (v : Vector Byte 16) : (s.setRegs v).loadFailed = s.loadFailed := rfl
@[simp] theorem State.setRegs_outputs (v : Vector Byte 16) : (s.setRegs v).outputs = s.outputs := rfl
@[simp] theorem State.setRegs_schedule (v : Vector Byte 16) : (s.setRegs v).schedule = s.schedule := rfl
@[simp] theorem State.setRegs_randomIn (v : Vector Byte 16) : (s.setRegs v).randomIn = s.randomIn := rfl
@[simp] theorem State.setRegs_randomCount (v : Vector Byte 16) : (s.setRegs v).randomCount = s.randomCount := rfl
@[simp] theorem State.setRegs_peek (v : Vector Byte 16) (a : Nat) : (s.setRegs v).peek a = s.peek a := rfl
@[simp] theorem State.setRegs_keyDown (v : Vector Byte 16) (j : Nibble) : (s.setRegs v).keyDown j = s.keyDown j := rfl

/-! ### setI -/

@[simp] theorem State.setI_v (w : Word) : (s.setI w).v = s.v := rfl
@[simp] theorem State.setI_i (w : Word) : (s.setI w).i = w := rfl
@[simp] theorem State.setI_pc (w : Word) : (s.setI w).pc = s.pc := rfl
@[simp] theorem State.setI_sp (w : Word) : (s.setI w).sp = s.sp := rfl
@[simp] theorem State.setI_stack (w : Word) : (s.setI w).stack = s.stack := rfl
@[simp] theorem State.setI_dt (w : Word) : (s.setI w).dt = s.dt := rfl
@[simp] theorem State.setI_st (w : Word) : (s.setI w).st = s.st := rfl
@[simp] theorem State.setI_fb (w : Word) : (s.setI w).fb = s.fb := rfl
@[simp] theorem State.setI_mem (w : Word) : (s.setI w).mem = s.mem := rfl
@[simp] theorem State.setI_keys (w : Word) : (s.setI w).keys = s.keys := rfl
@[simp] theorem State.setI_run (w : Word) : (s.setI w).run = s.run := rfl
@[simp] theorem State.setI_fault (w : Word) : (s.setI w).fault = s.fault := rfl
@[simp] theorem State.setI_romSize (w : Word) : (s.setI w).romSize = s.romSize := rfl
@[simp] theorem State.setI_loaded (w : Word) : (s.setI w).loaded = s.loaded := rfl
@[simp] theorem State.setI_loadFailed (w : Word) : (s.setI w).loadFailed = s.loadFailed := rfl
@[simp] theorem State.setI_outputs (w : Word) : (s.setI w).outputs = s.outputs := rfl
@[simp] theorem State.setI_schedule (w : Word) : (s.setI w).schedule = s.schedule := rfl
@[simp] theorem State.setI_randomIn (w : Word) : (s.setI w).randomIn = s.randomIn := rfl
@[simp] theorem State.setI_randomCount (w : Word) : (s.setI w).randomCount = s.randomCount := rfl
@[simp] theorem State.setI_reg (w : Word) (x : Nibble) : (s.setI w).reg x = s.reg x := rfl
@[simp] theorem State.setI_peek (w : Word) (a : Nat) : (s.setI w).peek a = s.peek a := rfl
@[simp] theorem State.setI_keyDown (w : Word) (j : Nibble) : (s.setI w).keyDown j = s.keyDown j := rfl

/-! ### setPc -/

@[simp] theorem State.setPc_v (w : Word) : (s.setPc w).v = s.v := rfl
@[simp] theorem State.setPc_i (w : Word) : (s.setPc w).i = s.i := rfl
@[simp] theorem State.setPc_pc (w : Word) : (s.setPc w).pc = w := rfl
@[simp] theorem State.setPc_sp (w : Word) : (s.setPc w).sp = s.sp := rfl
@[simp] theorem State.setPc_stack (w : Word) : (s.setPc w).stack = s.stack := rfl
@[simp] theorem State.setPc_dt (w : Word) : (s.setPc w).dt = s.dt := rfl
@[simp] theorem State.setPc_st (w : Word) : (s.setPc w).st = s.st := rfl
@[simp] theorem State.setPc_fb (w : Word) : (s.setPc w).fb = s.fb := rfl
@[simp] theorem State.setPc_mem (w : Word) : (s.setPc w).mem = s.mem := rfl
@[simp] theorem State.setPc_keys (w : Word) : (s.setPc w).keys = s.keys := rfl
@[simp] theorem State.setPc_run (w : Word) : (s.setPc w).run = s.run := rfl
@[simp] theorem State.setPc_fault (w : Word) : (s.setPc w).fault = s.fault := rfl
@[simp] theorem State.setPc_romSize (w : Word) : (s.setPc w).romSize = s.romSize := rfl
@[simp] theorem State.setPc_loaded (w : Word) : (s.setPc w).loaded = s.loaded := rfl
@[simp] theorem State.setPc_loadFailed (w : Word) : (s.setPc w).loadFailed = s.loadFailed := rfl
@[simp] theorem State.setPc_outputs (w : Word) : (s.setPc w).outputs = s.outputs := rfl
@[simp] theorem State.setPc_schedule (w : Word) : (s.setPc w).schedule = s.schedule := rfl
@[simp] theorem State.setPc_randomIn (w : Word) : (s.setPc w).randomIn = s.randomIn := rfl
@[simp] theorem State.setPc_randomCount (w : Word) : (s.setPc w).randomCount = s.randomCount := rfl
@[simp] theorem State.setPc_reg (w : Word) (x : Nibble) : (s.setPc w).reg x = s.reg x := rfl
@[simp] theorem State.setPc_peek (w : Word) (a : Nat) : (s.setPc w).peek a = s.peek a := rfl
@[simp] theorem State.setPc_keyDown (w : Word) (j : Nibble) : (s.setPc w).keyDown j = s.keyDown j := rfl

/-! ### setFrames -/

@[simp] theorem State.setFrames_v (k : Vector Word 16) (p : Fin 17) : (s.setFrames k p).v = s.v := rfl
@[simp] theorem State.setFrames_i (k : Vector Word 16) (p : Fin 17) : (s.setFrames k p).i = s.i := rfl
@[simp] theorem State.setFrames_pc (k : Vector Word 16) (p : Fin 17) : (s.setFrames k p).pc = s.pc := rfl
@[simp] theorem State.setFrames_sp (k : Vector Word 16) (p : Fin 17) : (s.setFrames k p).sp = p := rfl
@[simp] theorem State.setFrames_stack (k : Vector Word 16) (p : Fin 17) : (s.setFrames k p).stack = k := rfl
@[simp] theorem State.setFrames_dt (k : Vector Word 16) (p : Fin 17) : (s.setFrames k p).dt = s.dt := rfl
@[simp] theorem State.setFrames_st (k : Vector Word 16) (p : Fin 17) : (s.setFrames k p).st = s.st := rfl
@[simp] theorem State.setFrames_fb (k : Vector Word 16) (p : Fin 17) : (s.setFrames k p).fb = s.fb := rfl
@[simp] theorem State.setFrames_mem (k : Vector Word 16) (p : Fin 17) : (s.setFrames k p).mem = s.mem := rfl
@[simp] theorem State.setFrames_keys (k : Vector Word 16) (p : Fin 17) : (s.setFrames k p).keys = s.keys := rfl
@[simp] theorem State.setFrames_run (k : Vector Word 16) (p : Fin 17) : (s.setFrames k p).run = s.run := rfl
@[simp] theorem State.setFrames_fault (k : Vector Word 16) (p : Fin 17) : (s.setFrames k p).fault = s.fault := rfl
@[simp] theorem State.setFrames_romSize (k : Vector Word 16) (p : Fin 17) : (s.setFrames k p).romSize = s.romSize := rfl
@[simp] theorem State.setFrames_loaded (k : Vector Word 16) (p : Fin 17) : (s.setFrames k p).loaded = s.loaded := rfl
@[simp] theorem State.setFrames_loadFailed (k : Vector Word 16) (p : Fin 17) : (s.setFrames k p).loadFailed = s.loadFailed := rfl
@[simp] theorem State.setFrames_outputs (k : Vector Word 16) (p : Fin 17) : (s.setFrames k p).outputs = s.outputs := rfl
@[simp] theorem State.setFrames_schedule (k : Vector Word 16) (p : Fin 17) : (s.setFrames k p).schedule = s.schedule := rfl
@[simp] theorem State.setFrames_randomIn (k : Vector Word 16) (p : Fin 17) : (s.setFrames k p).randomIn = s.randomIn := rfl
@[simp] theorem State.setFrames_randomCount (k : Vector Word 16) (p : Fin 17) : (s.setFrames k p).randomCount = s.randomCount := rfl
@[simp] theorem State.setFrames_reg (k : Vector Word 16) (p : Fin 17) (x : Nibble) : (s.setFrames k p).reg x = s.reg x := rfl
@[simp] theorem State.setFrames_peek (k : Vector Word 16) (p : Fin 17) (a : Nat) : (s.setFrames k p).peek a = s.peek a := rfl
@[simp] theorem State.setFrames_keyDown (k : Vector Word 16) (p : Fin 17) (j : Nibble) : (s.setFrames k p).keyDown j = s.keyDown j := rfl

/-! ### setDt -/

@[simp] theorem State.setDt_v (b : Byte) : (s.setDt b).v = s.v := rfl
@[simp] theorem State.setDt_i (b : Byte) : (s.setDt b).i = s.i := rfl
@[simp] theorem State.setDt_pc (b : Byte) : (s.setDt b).pc = s.pc := rfl
@[simp] theorem State.setDt_sp (b : Byte) : (s.setDt b).sp = s.sp := rfl
@[simp] theorem State.setDt_stack (b : Byte) : (s.setDt b).stack = s.stack := rfl
@[simp] theorem State.setDt_dt (b : Byte) : (s.setDt b).dt = b := rfl
@[simp] theorem State.setDt_st (b : Byte) : (s.setDt b).st = s.st := rfl
@[simp] theorem State.setDt_fb (b : Byte) : (s.setDt b).fb = s.fb := rfl
@[simp] theorem State.setDt_mem (b : Byte) : (s.setDt b).mem = s.mem := rfl
@[simp] theorem State.setDt_keys (b : Byte) : (s.setDt b).keys = s.keys := rfl
@[simp] theorem State.setDt_run (b : Byte) : (s.setDt b).run = s.run := rfl
@[simp] theorem State.setDt_fault (b : Byte) : (s.setDt b).fault = s.fault := rfl
@[simp] theorem State.setDt_romSize (b : Byte) : (s.setDt b).romSize = s.romSize := rfl
@[simp] theorem State.setDt_loaded (b : Byte) : (s.setDt b).loaded = s.loaded := rfl
@[simp] theorem State.setDt_loadFailed (b : Byte) : (s.setDt b).loadFailed = s.loadFailed := rfl
@[simp] theorem State.setDt_outputs (b : Byte) : (s.setDt b).outputs = s.outputs := rfl
@[simp] theorem State.setDt_schedule (b : Byte) : (s.setDt b).schedule = s.schedule := rfl
@[simp] theorem State.setDt_randomIn (b : Byte) : (s.setDt b).randomIn = s.randomIn := rfl
@[simp] theorem State.setDt_randomCount (b : Byte) : (s.setDt b).randomCount = s.randomCount := rfl
@[simp] theorem State.setDt_reg (b : Byte) (x : Nibble) : (s.setDt b).reg x = s.reg x := rfl
@[simp] theorem State.setDt_peek (b : Byte) (a : Nat) : (s.setDt b).peek a = s.peek a := rfl
@[simp] theorem State.setDt_keyDown (b : Byte) (j : Nibble) : (s.setDt b).keyDown j = s.keyDown j := rfl

/-! ### setSt -/

@[simp] theorem State.setSt_v (b : Byte) : (s.setSt b).v = s.v := rfl
@[simp] theorem State.setSt_i (b : Byte) : (s.setSt b).i = s.i := rfl
@[simp] theorem State.setSt_pc (b : Byte) : (s.setSt b).pc = s.pc := rfl
@[simp] theorem State.setSt_sp (b : Byte) : (s.setSt b).sp = s.sp := rfl
@[simp] theorem State.setSt_stack (b : Byte) : (s.setSt b).stack = s.stack := rfl
@[simp] theorem State.setSt_dt (b : Byte) : (s.setSt b).dt = s.dt := rfl
@[simp] theorem State.setSt_st (b : Byte) : (s.setSt b).st = b := rfl
@[simp] theorem State.setSt_fb (b : Byte) : (s.setSt b).fb = s.fb := rfl
@[simp] theorem State.setSt_mem (b : Byte) : (s.setSt b).mem = s.mem := rfl
@[simp] theorem State.setSt_keys (b : Byte) : (s.setSt b).keys = s.keys := rfl
@[simp] theorem State.setSt_run (b : Byte) : (s.setSt b).run = s.run := rfl
@[simp] theorem State.setSt_fault (b : Byte) : (s.setSt b).fault = s.fault := rfl
@[simp] theorem State.setSt_romSize (b : Byte) : (s.setSt b).romSize = s.romSize := rfl
@[simp] theorem State.setSt_loaded (b : Byte) : (s.setSt b).loaded = s.loaded := rfl
@[simp] theorem State.setSt_loadFailed (b : Byte) : (s.setSt b).loadFailed = s.loadFailed := rfl
@[simp] theorem State.setSt_outputs (b : Byte) : (s.setSt b).outputs = s.outputs := rfl
@[simp] theorem State.setSt_schedule (b : Byte) : (s.setSt b).schedule = s.schedule := rfl
@[simp] theorem State.setSt_randomIn (b : Byte) : (s.setSt b).randomIn = s.randomIn := rfl
@[simp] theorem State.setSt_randomCount (b : Byte) : (s.setSt b).randomCount = s.randomCount := rfl
@[simp] theorem State.setSt_reg (b : Byte) (x : Nibble) : (s.setSt b).reg x = s.reg x := rfl
@[simp] theorem State.setSt_peek (b : Byte) (a : Nat) : (s.setSt b).peek a = s.peek a := rfl
@[simp] theorem State.setSt_keyDown (b : Byte) (j : Nibble) : (s.setSt b).keyDown j = s.keyDown j := rfl

/-! ### setFb -/

@[simp] theorem State.setFb_v (f : Framebuffer) : (s.setFb f).v = s.v := rfl
@[simp] theorem State.setFb_i (f : Framebuffer) : (s.setFb f).i = s.i := rfl
@[simp] theorem State.setFb_pc (f : Framebuffer) : (s.setFb f).pc = s.pc := rfl
@[simp] theorem State.setFb_sp (f : Framebuffer) : (s.setFb f).sp = s.sp := rfl
@[simp] theorem State.setFb_stack (f : Framebuffer) : (s.setFb f).stack = s.stack := rfl
@[simp] theorem State.setFb_dt (f : Framebuffer) : (s.setFb f).dt = s.dt := rfl
@[simp] theorem State.setFb_st (f : Framebuffer) : (s.setFb f).st = s.st := rfl
@[simp] theorem State.setFb_fb (f : Framebuffer) : (s.setFb f).fb = f := rfl
@[simp] theorem State.setFb_mem (f : Framebuffer) : (s.setFb f).mem = s.mem := rfl
@[simp] theorem State.setFb_keys (f : Framebuffer) : (s.setFb f).keys = s.keys := rfl
@[simp] theorem State.setFb_run (f : Framebuffer) : (s.setFb f).run = s.run := rfl
@[simp] theorem State.setFb_fault (f : Framebuffer) : (s.setFb f).fault = s.fault := rfl
@[simp] theorem State.setFb_romSize (f : Framebuffer) : (s.setFb f).romSize = s.romSize := rfl
@[simp] theorem State.setFb_loaded (f : Framebuffer) : (s.setFb f).loaded = s.loaded := rfl
@[simp] theorem State.setFb_loadFailed (f : Framebuffer) : (s.setFb f).loadFailed = s.loadFailed := rfl
@[simp] theorem State.setFb_outputs (f : Framebuffer) : (s.setFb f).outputs = s.outputs := rfl
@[simp] theorem State.setFb_schedule (f : Framebuffer) : (s.setFb f).schedule = s.schedule := rfl
@[simp] theorem State.setFb_randomIn (f : Framebuffer) : (s.setFb f).randomIn = s.randomIn := rfl
@[simp] theorem State.setFb_randomCount (f : Framebuffer) : (s.setFb f).randomCount = s.randomCount := rfl
@[simp] theorem State.setFb_reg (f : Framebuffer) (x : Nibble) : (s.setFb f).reg x = s.reg x := rfl
@[simp] theorem State.setFb_peek (f : Framebuffer) (a : Nat) : (s.setFb f).peek a = s.peek a := rfl
@[simp] theorem State.setFb_keyDown (f : Framebuffer) (j : Nibble) : (s.setFb f).keyDown j = s.keyDown j := rfl

/-! ### setMem -/

@[simp] theorem State.setMem_v (m : Memory) : (s.setMem m).v = s.v := rfl
@[simp] theorem State.setMem_i (m : Memory) : (s.setMem m).i = s.i := rfl
@[simp] theorem State.setMem_pc (m : Memory) : (s.setMem m).pc = s.pc := rfl
@[simp] theorem State.setMem_sp (m : Memory) : (s.setMem m).sp = s.sp := rfl
@[simp] theorem State.setMem_stack (m : Memory) : (s.setMem m).stack = s.stack := rfl
@[simp] theorem State.setMem_dt (m : Memory) : (s.setMem m).dt = s.dt := rfl
@[simp] theorem State.setMem_st (m : Memory) : (s.setMem m).st = s.st := rfl
@[simp] theorem State.setMem_fb (m : Memory) : (s.setMem m).fb = s.fb := rfl
@[simp] theorem State.setMem_mem (m : Memory) : (s.setMem m).mem = m := rfl
@[simp] theorem State.setMem_keys (m : Memory) : (s.setMem m).keys = s.keys := rfl
@[simp] theorem State.setMem_run (m : Memory) : (s.setMem m).run = s.run := rfl
@[simp] theorem State.setMem_fault (m : Memory) : (s.setMem m).fault = s.fault := rfl
@[simp] theorem State.setMem_romSize (m : Memory) : (s.setMem m).romSize = s.romSize := rfl
@[simp] theorem State.setMem_loaded (m : Memory) : (s.setMem m).loaded = s.loaded := rfl
@[simp] theorem State.setMem_loadFailed (m : Memory) : (s.setMem m).loadFailed = s.loadFailed := rfl
@[simp] theorem State.setMem_outputs (m : Memory) : (s.setMem m).outputs = s.outputs := rfl
@[simp] theorem State.setMem_schedule (m : Memory) : (s.setMem m).schedule = s.schedule := rfl
@[simp] theorem State.setMem_randomIn (m : Memory) : (s.setMem m).randomIn = s.randomIn := rfl
@[simp] theorem State.setMem_randomCount (m : Memory) : (s.setMem m).randomCount = s.randomCount := rfl
@[simp] theorem State.setMem_reg (m : Memory) (x : Nibble) : (s.setMem m).reg x = s.reg x := rfl
@[simp] theorem State.setMem_keyDown (m : Memory) (j : Nibble) : (s.setMem m).keyDown j = s.keyDown j := rfl

/-! ### setKey -/

@[simp] theorem State.setKey_v (k : Nibble) (b : Bool) : (s.setKey k b).v = s.v := rfl
@[simp] theorem State.setKey_i (k : Nibble) (b : Bool) : (s.setKey k b).i = s.i := rfl
@[simp] theorem State.setKey_pc (k : Nibble) (b : Bool) : (s.setKey k b).pc = s.pc := rfl
@[simp] theorem State.setKey_sp (k : Nibble) (b : Bool) : (s.setKey k b).sp = s.sp := rfl
@[simp] theorem State.setKey_stack (k : Nibble) (b : Bool) : (s.setKey k b).stack = s.stack := rfl
@[simp] theorem State.setKey_dt (k : Nibble) (b : Bool) : (s.setKey k b).dt = s.dt := rfl
@[simp] theorem State.setKey_st (k : Nibble) (b : Bool) : (s.setKey k b).st = s.st := rfl
@[simp] theorem State.setKey_fb (k : Nibble) (b : Bool) : (s.setKey k b).fb = s.fb := rfl
@[simp] theorem State.setKey_mem (k : Nibble) (b : Bool) : (s.setKey k b).mem = s.mem := rfl
@[simp] theorem State.setKey_keys (k : Nibble) (b : Bool) : (s.setKey k b).keys = s.keys.set k.toNat b k.isLt := rfl
@[simp] theorem State.setKey_run (k : Nibble) (b : Bool) : (s.setKey k b).run = s.run := rfl
@[simp] theorem State.setKey_fault (k : Nibble) (b : Bool) : (s.setKey k b).fault = s.fault := rfl
@[simp] theorem State.setKey_romSize (k : Nibble) (b : Bool) : (s.setKey k b).romSize = s.romSize := rfl
@[simp] theorem State.setKey_loaded (k : Nibble) (b : Bool) : (s.setKey k b).loaded = s.loaded := rfl
@[simp] theorem State.setKey_loadFailed (k : Nibble) (b : Bool) : (s.setKey k b).loadFailed = s.loadFailed := rfl
@[simp] theorem State.setKey_outputs (k : Nibble) (b : Bool) : (s.setKey k b).outputs = s.outputs := rfl
@[simp] theorem State.setKey_schedule (k : Nibble) (b : Bool) : (s.setKey k b).schedule = s.schedule := rfl
@[simp] theorem State.setKey_randomIn (k : Nibble) (b : Bool) : (s.setKey k b).randomIn = s.randomIn := rfl
@[simp] theorem State.setKey_randomCount (k : Nibble) (b : Bool) : (s.setKey k b).randomCount = s.randomCount := rfl
@[simp] theorem State.setKey_reg (k : Nibble) (b : Bool) (x : Nibble) : (s.setKey k b).reg x = s.reg x := rfl
@[simp] theorem State.setKey_peek (k : Nibble) (b : Bool) (a : Nat) : (s.setKey k b).peek a = s.peek a := rfl

/-! ### setRun -/

@[simp] theorem State.setRun_v (q : RunState) : (s.setRun q).v = s.v := rfl
@[simp] theorem State.setRun_i (q : RunState) : (s.setRun q).i = s.i := rfl
@[simp] theorem State.setRun_pc (q : RunState) : (s.setRun q).pc = s.pc := rfl
@[simp] theorem State.setRun_sp (q : RunState) : (s.setRun q).sp = s.sp := rfl
@[simp] theorem State.setRun_stack (q : RunState) : (s.setRun q).stack = s.stack := rfl
@[simp] theorem State.setRun_dt (q : RunState) : (s.setRun q).dt = s.dt := rfl
@[simp] theorem State.setRun_st (q : RunState) : (s.setRun q).st = s.st := rfl
@[simp] theorem State.setRun_fb (q : RunState) : (s.setRun q).fb = s.fb := rfl
@[simp] theorem State.setRun_mem (q : RunState) : (s.setRun q).mem = s.mem := rfl
@[simp] theorem State.setRun_keys (q : RunState) : (s.setRun q).keys = s.keys := rfl
@[simp] theorem State.setRun_run (q : RunState) : (s.setRun q).run = q := rfl
@[simp] theorem State.setRun_fault (q : RunState) : (s.setRun q).fault = s.fault := rfl
@[simp] theorem State.setRun_romSize (q : RunState) : (s.setRun q).romSize = s.romSize := rfl
@[simp] theorem State.setRun_loaded (q : RunState) : (s.setRun q).loaded = s.loaded := rfl
@[simp] theorem State.setRun_loadFailed (q : RunState) : (s.setRun q).loadFailed = s.loadFailed := rfl
@[simp] theorem State.setRun_outputs (q : RunState) : (s.setRun q).outputs = s.outputs := rfl
@[simp] theorem State.setRun_schedule (q : RunState) : (s.setRun q).schedule = s.schedule := rfl
@[simp] theorem State.setRun_randomIn (q : RunState) : (s.setRun q).randomIn = s.randomIn := rfl
@[simp] theorem State.setRun_randomCount (q : RunState) : (s.setRun q).randomCount = s.randomCount := rfl
@[simp] theorem State.setRun_reg (q : RunState) (x : Nibble) : (s.setRun q).reg x = s.reg x := rfl
@[simp] theorem State.setRun_peek (q : RunState) (a : Nat) : (s.setRun q).peek a = s.peek a := rfl
@[simp] theorem State.setRun_keyDown (q : RunState) (j : Nibble) : (s.setRun q).keyDown j = s.keyDown j := rfl

/-! ### setFault -/

@[simp] theorem State.setFault_v (f : FaultRecord) : (s.setFault f).v = s.v := rfl
@[simp] theorem State.setFault_i (f : FaultRecord) : (s.setFault f).i = s.i := rfl
@[simp] theorem State.setFault_pc (f : FaultRecord) : (s.setFault f).pc = s.pc := rfl
@[simp] theorem State.setFault_sp (f : FaultRecord) : (s.setFault f).sp = s.sp := rfl
@[simp] theorem State.setFault_stack (f : FaultRecord) : (s.setFault f).stack = s.stack := rfl
@[simp] theorem State.setFault_dt (f : FaultRecord) : (s.setFault f).dt = s.dt := rfl
@[simp] theorem State.setFault_st (f : FaultRecord) : (s.setFault f).st = s.st := rfl
@[simp] theorem State.setFault_fb (f : FaultRecord) : (s.setFault f).fb = s.fb := rfl
@[simp] theorem State.setFault_mem (f : FaultRecord) : (s.setFault f).mem = s.mem := rfl
@[simp] theorem State.setFault_keys (f : FaultRecord) : (s.setFault f).keys = s.keys := rfl
@[simp] theorem State.setFault_run (f : FaultRecord) : (s.setFault f).run = s.run := rfl
@[simp] theorem State.setFault_fault (f : FaultRecord) : (s.setFault f).fault = some f := rfl
@[simp] theorem State.setFault_romSize (f : FaultRecord) : (s.setFault f).romSize = s.romSize := rfl
@[simp] theorem State.setFault_loaded (f : FaultRecord) : (s.setFault f).loaded = s.loaded := rfl
@[simp] theorem State.setFault_loadFailed (f : FaultRecord) : (s.setFault f).loadFailed = s.loadFailed := rfl
@[simp] theorem State.setFault_outputs (f : FaultRecord) : (s.setFault f).outputs = s.outputs := rfl
@[simp] theorem State.setFault_schedule (f : FaultRecord) : (s.setFault f).schedule = s.schedule := rfl
@[simp] theorem State.setFault_randomIn (f : FaultRecord) : (s.setFault f).randomIn = s.randomIn := rfl
@[simp] theorem State.setFault_randomCount (f : FaultRecord) : (s.setFault f).randomCount = s.randomCount := rfl
@[simp] theorem State.setFault_reg (f : FaultRecord) (x : Nibble) : (s.setFault f).reg x = s.reg x := rfl
@[simp] theorem State.setFault_peek (f : FaultRecord) (a : Nat) : (s.setFault f).peek a = s.peek a := rfl
@[simp] theorem State.setFault_keyDown (f : FaultRecord) (j : Nibble) : (s.setFault f).keyDown j = s.keyDown j := rfl

/-! ### setRom -/

@[simp] theorem State.setRom_v (n : Nat) : (s.setRom n).v = s.v := rfl
@[simp] theorem State.setRom_i (n : Nat) : (s.setRom n).i = s.i := rfl
@[simp] theorem State.setRom_pc (n : Nat) : (s.setRom n).pc = s.pc := rfl
@[simp] theorem State.setRom_sp (n : Nat) : (s.setRom n).sp = s.sp := rfl
@[simp] theorem State.setRom_stack (n : Nat) : (s.setRom n).stack = s.stack := rfl
@[simp] theorem State.setRom_dt (n : Nat) : (s.setRom n).dt = s.dt := rfl
@[simp] theorem State.setRom_st (n : Nat) : (s.setRom n).st = s.st := rfl
@[simp] theorem State.setRom_fb (n : Nat) : (s.setRom n).fb = s.fb := rfl
@[simp] theorem State.setRom_mem (n : Nat) : (s.setRom n).mem = s.mem := rfl
@[simp] theorem State.setRom_keys (n : Nat) : (s.setRom n).keys = s.keys := rfl
@[simp] theorem State.setRom_run (n : Nat) : (s.setRom n).run = s.run := rfl
@[simp] theorem State.setRom_fault (n : Nat) : (s.setRom n).fault = s.fault := rfl
@[simp] theorem State.setRom_romSize (n : Nat) : (s.setRom n).romSize = n := rfl
@[simp] theorem State.setRom_loaded (n : Nat) : (s.setRom n).loaded = true := rfl
@[simp] theorem State.setRom_loadFailed (n : Nat) : (s.setRom n).loadFailed = s.loadFailed := rfl
@[simp] theorem State.setRom_outputs (n : Nat) : (s.setRom n).outputs = s.outputs := rfl
@[simp] theorem State.setRom_schedule (n : Nat) : (s.setRom n).schedule = s.schedule := rfl
@[simp] theorem State.setRom_randomIn (n : Nat) : (s.setRom n).randomIn = s.randomIn := rfl
@[simp] theorem State.setRom_randomCount (n : Nat) : (s.setRom n).randomCount = s.randomCount := rfl
@[simp] theorem State.setRom_reg (n : Nat) (x : Nibble) : (s.setRom n).reg x = s.reg x := rfl
@[simp] theorem State.setRom_peek (n : Nat) (a : Nat) : (s.setRom n).peek a = s.peek a := rfl
@[simp] theorem State.setRom_keyDown (n : Nat) (j : Nibble) : (s.setRom n).keyDown j = s.keyDown j := rfl

/-! ### failLoad -/

@[simp] theorem State.failLoad_v (q : LoadFailure) : (s.failLoad q).v = s.v := rfl
@[simp] theorem State.failLoad_i (q : LoadFailure) : (s.failLoad q).i = s.i := rfl
@[simp] theorem State.failLoad_pc (q : LoadFailure) : (s.failLoad q).pc = s.pc := rfl
@[simp] theorem State.failLoad_sp (q : LoadFailure) : (s.failLoad q).sp = s.sp := rfl
@[simp] theorem State.failLoad_stack (q : LoadFailure) : (s.failLoad q).stack = s.stack := rfl
@[simp] theorem State.failLoad_dt (q : LoadFailure) : (s.failLoad q).dt = s.dt := rfl
@[simp] theorem State.failLoad_st (q : LoadFailure) : (s.failLoad q).st = s.st := rfl
@[simp] theorem State.failLoad_fb (q : LoadFailure) : (s.failLoad q).fb = s.fb := rfl
@[simp] theorem State.failLoad_mem (q : LoadFailure) : (s.failLoad q).mem = s.mem := rfl
@[simp] theorem State.failLoad_keys (q : LoadFailure) : (s.failLoad q).keys = s.keys := rfl
@[simp] theorem State.failLoad_run (q : LoadFailure) : (s.failLoad q).run = s.run := rfl
@[simp] theorem State.failLoad_fault (q : LoadFailure) : (s.failLoad q).fault = s.fault := rfl
@[simp] theorem State.failLoad_romSize (q : LoadFailure) : (s.failLoad q).romSize = s.romSize := rfl
@[simp] theorem State.failLoad_loaded (q : LoadFailure) : (s.failLoad q).loaded = s.loaded := rfl
@[simp] theorem State.failLoad_loadFailed (q : LoadFailure) : (s.failLoad q).loadFailed = true := rfl
@[simp] theorem State.failLoad_outputs (q : LoadFailure) : (s.failLoad q).outputs = .loadFailed q :: s.outputs := rfl
@[simp] theorem State.failLoad_schedule (q : LoadFailure) : (s.failLoad q).schedule = s.schedule := rfl
@[simp] theorem State.failLoad_randomIn (q : LoadFailure) : (s.failLoad q).randomIn = s.randomIn := rfl
@[simp] theorem State.failLoad_randomCount (q : LoadFailure) : (s.failLoad q).randomCount = s.randomCount := rfl
@[simp] theorem State.failLoad_reg (q : LoadFailure) (x : Nibble) : (s.failLoad q).reg x = s.reg x := rfl
@[simp] theorem State.failLoad_peek (q : LoadFailure) (a : Nat) : (s.failLoad q).peek a = s.peek a := rfl
@[simp] theorem State.failLoad_keyDown (q : LoadFailure) (j : Nibble) : (s.failLoad q).keyDown j = s.keyDown j := rfl

/-! ### emit -/

@[simp] theorem State.emit_v (e : Output) : (s.emit e).v = s.v := rfl
@[simp] theorem State.emit_i (e : Output) : (s.emit e).i = s.i := rfl
@[simp] theorem State.emit_pc (e : Output) : (s.emit e).pc = s.pc := rfl
@[simp] theorem State.emit_sp (e : Output) : (s.emit e).sp = s.sp := rfl
@[simp] theorem State.emit_stack (e : Output) : (s.emit e).stack = s.stack := rfl
@[simp] theorem State.emit_dt (e : Output) : (s.emit e).dt = s.dt := rfl
@[simp] theorem State.emit_st (e : Output) : (s.emit e).st = s.st := rfl
@[simp] theorem State.emit_fb (e : Output) : (s.emit e).fb = s.fb := rfl
@[simp] theorem State.emit_mem (e : Output) : (s.emit e).mem = s.mem := rfl
@[simp] theorem State.emit_keys (e : Output) : (s.emit e).keys = s.keys := rfl
@[simp] theorem State.emit_run (e : Output) : (s.emit e).run = s.run := rfl
@[simp] theorem State.emit_fault (e : Output) : (s.emit e).fault = s.fault := rfl
@[simp] theorem State.emit_romSize (e : Output) : (s.emit e).romSize = s.romSize := rfl
@[simp] theorem State.emit_loaded (e : Output) : (s.emit e).loaded = s.loaded := rfl
@[simp] theorem State.emit_loadFailed (e : Output) : (s.emit e).loadFailed = s.loadFailed := rfl
@[simp] theorem State.emit_outputs (e : Output) : (s.emit e).outputs = e :: s.outputs := rfl
@[simp] theorem State.emit_schedule (e : Output) : (s.emit e).schedule = s.schedule := rfl
@[simp] theorem State.emit_randomIn (e : Output) : (s.emit e).randomIn = s.randomIn := rfl
@[simp] theorem State.emit_randomCount (e : Output) : (s.emit e).randomCount = s.randomCount := rfl
@[simp] theorem State.emit_reg (e : Output) (x : Nibble) : (s.emit e).reg x = s.reg x := rfl
@[simp] theorem State.emit_peek (e : Output) (a : Nat) : (s.emit e).peek a = s.peek a := rfl
@[simp] theorem State.emit_keyDown (e : Output) (j : Nibble) : (s.emit e).keyDown j = s.keyDown j := rfl

/-! ### setSchedule -/

@[simp] theorem State.setSchedule_v (ts : List Turn) : (s.setSchedule ts).v = s.v := rfl
@[simp] theorem State.setSchedule_i (ts : List Turn) : (s.setSchedule ts).i = s.i := rfl
@[simp] theorem State.setSchedule_pc (ts : List Turn) : (s.setSchedule ts).pc = s.pc := rfl
@[simp] theorem State.setSchedule_sp (ts : List Turn) : (s.setSchedule ts).sp = s.sp := rfl
@[simp] theorem State.setSchedule_stack (ts : List Turn) : (s.setSchedule ts).stack = s.stack := rfl
@[simp] theorem State.setSchedule_dt (ts : List Turn) : (s.setSchedule ts).dt = s.dt := rfl
@[simp] theorem State.setSchedule_st (ts : List Turn) : (s.setSchedule ts).st = s.st := rfl
@[simp] theorem State.setSchedule_fb (ts : List Turn) : (s.setSchedule ts).fb = s.fb := rfl
@[simp] theorem State.setSchedule_mem (ts : List Turn) : (s.setSchedule ts).mem = s.mem := rfl
@[simp] theorem State.setSchedule_keys (ts : List Turn) : (s.setSchedule ts).keys = s.keys := rfl
@[simp] theorem State.setSchedule_run (ts : List Turn) : (s.setSchedule ts).run = s.run := rfl
@[simp] theorem State.setSchedule_fault (ts : List Turn) : (s.setSchedule ts).fault = s.fault := rfl
@[simp] theorem State.setSchedule_romSize (ts : List Turn) : (s.setSchedule ts).romSize = s.romSize := rfl
@[simp] theorem State.setSchedule_loaded (ts : List Turn) : (s.setSchedule ts).loaded = s.loaded := rfl
@[simp] theorem State.setSchedule_loadFailed (ts : List Turn) : (s.setSchedule ts).loadFailed = s.loadFailed := rfl
@[simp] theorem State.setSchedule_outputs (ts : List Turn) : (s.setSchedule ts).outputs = s.outputs := rfl
@[simp] theorem State.setSchedule_schedule (ts : List Turn) : (s.setSchedule ts).schedule = ts := rfl
@[simp] theorem State.setSchedule_randomIn (ts : List Turn) : (s.setSchedule ts).randomIn = s.randomIn := rfl
@[simp] theorem State.setSchedule_randomCount (ts : List Turn) : (s.setSchedule ts).randomCount = s.randomCount := rfl
@[simp] theorem State.setSchedule_reg (ts : List Turn) (x : Nibble) : (s.setSchedule ts).reg x = s.reg x := rfl
@[simp] theorem State.setSchedule_peek (ts : List Turn) (a : Nat) : (s.setSchedule ts).peek a = s.peek a := rfl
@[simp] theorem State.setSchedule_keyDown (ts : List Turn) (j : Nibble) : (s.setSchedule ts).keyDown j = s.keyDown j := rfl

/-! ### dropRandom -/

@[simp] theorem State.dropRandom_v : s.dropRandom.v = s.v := rfl
@[simp] theorem State.dropRandom_i : s.dropRandom.i = s.i := rfl
@[simp] theorem State.dropRandom_pc : s.dropRandom.pc = s.pc := rfl
@[simp] theorem State.dropRandom_sp : s.dropRandom.sp = s.sp := rfl
@[simp] theorem State.dropRandom_stack : s.dropRandom.stack = s.stack := rfl
@[simp] theorem State.dropRandom_dt : s.dropRandom.dt = s.dt := rfl
@[simp] theorem State.dropRandom_st : s.dropRandom.st = s.st := rfl
@[simp] theorem State.dropRandom_fb : s.dropRandom.fb = s.fb := rfl
@[simp] theorem State.dropRandom_mem : s.dropRandom.mem = s.mem := rfl
@[simp] theorem State.dropRandom_keys : s.dropRandom.keys = s.keys := rfl
@[simp] theorem State.dropRandom_run : s.dropRandom.run = s.run := rfl
@[simp] theorem State.dropRandom_fault : s.dropRandom.fault = s.fault := rfl
@[simp] theorem State.dropRandom_romSize : s.dropRandom.romSize = s.romSize := rfl
@[simp] theorem State.dropRandom_loaded : s.dropRandom.loaded = s.loaded := rfl
@[simp] theorem State.dropRandom_loadFailed : s.dropRandom.loadFailed = s.loadFailed := rfl
@[simp] theorem State.dropRandom_outputs : s.dropRandom.outputs = s.outputs := rfl
@[simp] theorem State.dropRandom_schedule : s.dropRandom.schedule = s.schedule := rfl
@[simp] theorem State.dropRandom_randomIn : s.dropRandom.randomIn = s.randomIn.tail := rfl
@[simp] theorem State.dropRandom_randomCount : s.dropRandom.randomCount = s.randomCount + 1 := rfl
@[simp] theorem State.dropRandom_reg (x : Nibble) : s.dropRandom.reg x = s.reg x := rfl
@[simp] theorem State.dropRandom_peek (a : Nat) : s.dropRandom.peek a = s.peek a := rfl
@[simp] theorem State.dropRandom_keyDown (j : Nibble) : s.dropRandom.keyDown j = s.keyDown j := rfl

/-! ### advance -/

@[simp] theorem State.advance_v : s.advance.v = s.v := rfl
@[simp] theorem State.advance_i : s.advance.i = s.i := rfl
@[simp] theorem State.advance_pc : s.advance.pc = s.pc + 2 := rfl
@[simp] theorem State.advance_sp : s.advance.sp = s.sp := rfl
@[simp] theorem State.advance_stack : s.advance.stack = s.stack := rfl
@[simp] theorem State.advance_dt : s.advance.dt = s.dt := rfl
@[simp] theorem State.advance_st : s.advance.st = s.st := rfl
@[simp] theorem State.advance_fb : s.advance.fb = s.fb := rfl
@[simp] theorem State.advance_mem : s.advance.mem = s.mem := rfl
@[simp] theorem State.advance_keys : s.advance.keys = s.keys := rfl
@[simp] theorem State.advance_run : s.advance.run = s.run := rfl
@[simp] theorem State.advance_fault : s.advance.fault = s.fault := rfl
@[simp] theorem State.advance_romSize : s.advance.romSize = s.romSize := rfl
@[simp] theorem State.advance_loaded : s.advance.loaded = s.loaded := rfl
@[simp] theorem State.advance_loadFailed : s.advance.loadFailed = s.loadFailed := rfl
@[simp] theorem State.advance_outputs : s.advance.outputs = s.outputs := rfl
@[simp] theorem State.advance_schedule : s.advance.schedule = s.schedule := rfl
@[simp] theorem State.advance_randomIn : s.advance.randomIn = s.randomIn := rfl
@[simp] theorem State.advance_randomCount : s.advance.randomCount = s.randomCount := rfl
@[simp] theorem State.advance_reg (x : Nibble) : s.advance.reg x = s.reg x := rfl
@[simp] theorem State.advance_peek (a : Nat) : s.advance.peek a = s.peek a := rfl
@[simp] theorem State.advance_keyDown (j : Nibble) : s.advance.keyDown j = s.keyDown j := rfl

/-! ### skipIf -/

@[simp] theorem State.skipIf_v (c : Bool) : (s.skipIf c).v = s.v := rfl
@[simp] theorem State.skipIf_i (c : Bool) : (s.skipIf c).i = s.i := rfl
@[simp] theorem State.skipIf_pc (c : Bool) : (s.skipIf c).pc = s.pc + if c then 4 else 2 := rfl
@[simp] theorem State.skipIf_sp (c : Bool) : (s.skipIf c).sp = s.sp := rfl
@[simp] theorem State.skipIf_stack (c : Bool) : (s.skipIf c).stack = s.stack := rfl
@[simp] theorem State.skipIf_dt (c : Bool) : (s.skipIf c).dt = s.dt := rfl
@[simp] theorem State.skipIf_st (c : Bool) : (s.skipIf c).st = s.st := rfl
@[simp] theorem State.skipIf_fb (c : Bool) : (s.skipIf c).fb = s.fb := rfl
@[simp] theorem State.skipIf_mem (c : Bool) : (s.skipIf c).mem = s.mem := rfl
@[simp] theorem State.skipIf_keys (c : Bool) : (s.skipIf c).keys = s.keys := rfl
@[simp] theorem State.skipIf_run (c : Bool) : (s.skipIf c).run = s.run := rfl
@[simp] theorem State.skipIf_fault (c : Bool) : (s.skipIf c).fault = s.fault := rfl
@[simp] theorem State.skipIf_romSize (c : Bool) : (s.skipIf c).romSize = s.romSize := rfl
@[simp] theorem State.skipIf_loaded (c : Bool) : (s.skipIf c).loaded = s.loaded := rfl
@[simp] theorem State.skipIf_loadFailed (c : Bool) : (s.skipIf c).loadFailed = s.loadFailed := rfl
@[simp] theorem State.skipIf_outputs (c : Bool) : (s.skipIf c).outputs = s.outputs := rfl
@[simp] theorem State.skipIf_schedule (c : Bool) : (s.skipIf c).schedule = s.schedule := rfl
@[simp] theorem State.skipIf_randomIn (c : Bool) : (s.skipIf c).randomIn = s.randomIn := rfl
@[simp] theorem State.skipIf_randomCount (c : Bool) : (s.skipIf c).randomCount = s.randomCount := rfl
@[simp] theorem State.skipIf_reg (c : Bool) (x : Nibble) : (s.skipIf c).reg x = s.reg x := rfl
@[simp] theorem State.skipIf_peek (c : Bool) (a : Nat) : (s.skipIf c).peek a = s.peek a := rfl
@[simp] theorem State.skipIf_keyDown (c : Bool) (j : Nibble) : (s.skipIf c).keyDown j = s.keyDown j := rfl

/-! ### setFlag -/

@[simp] theorem State.setFlag_v (f : Bool) : (s.setFlag f).v = s.v.set VF.toNat (flagByte f) VF.isLt := rfl
@[simp] theorem State.setFlag_i (f : Bool) : (s.setFlag f).i = s.i := rfl
@[simp] theorem State.setFlag_pc (f : Bool) : (s.setFlag f).pc = s.pc := rfl
@[simp] theorem State.setFlag_sp (f : Bool) : (s.setFlag f).sp = s.sp := rfl
@[simp] theorem State.setFlag_stack (f : Bool) : (s.setFlag f).stack = s.stack := rfl
@[simp] theorem State.setFlag_dt (f : Bool) : (s.setFlag f).dt = s.dt := rfl
@[simp] theorem State.setFlag_st (f : Bool) : (s.setFlag f).st = s.st := rfl
@[simp] theorem State.setFlag_fb (f : Bool) : (s.setFlag f).fb = s.fb := rfl
@[simp] theorem State.setFlag_mem (f : Bool) : (s.setFlag f).mem = s.mem := rfl
@[simp] theorem State.setFlag_keys (f : Bool) : (s.setFlag f).keys = s.keys := rfl
@[simp] theorem State.setFlag_run (f : Bool) : (s.setFlag f).run = s.run := rfl
@[simp] theorem State.setFlag_fault (f : Bool) : (s.setFlag f).fault = s.fault := rfl
@[simp] theorem State.setFlag_romSize (f : Bool) : (s.setFlag f).romSize = s.romSize := rfl
@[simp] theorem State.setFlag_loaded (f : Bool) : (s.setFlag f).loaded = s.loaded := rfl
@[simp] theorem State.setFlag_loadFailed (f : Bool) : (s.setFlag f).loadFailed = s.loadFailed := rfl
@[simp] theorem State.setFlag_outputs (f : Bool) : (s.setFlag f).outputs = s.outputs := rfl
@[simp] theorem State.setFlag_schedule (f : Bool) : (s.setFlag f).schedule = s.schedule := rfl
@[simp] theorem State.setFlag_randomIn (f : Bool) : (s.setFlag f).randomIn = s.randomIn := rfl
@[simp] theorem State.setFlag_randomCount (f : Bool) : (s.setFlag f).randomCount = s.randomCount := rfl
@[simp] theorem State.setFlag_peek (f : Bool) (a : Nat) : (s.setFlag f).peek a = s.peek a := rfl
@[simp] theorem State.setFlag_keyDown (f : Bool) (j : Nibble) : (s.setFlag f).keyDown j = s.keyDown j := rfl

/-! ### takeFault -/

@[simp] theorem State.takeFault_v (info : FaultInfo) (w : Option Word) : (s.takeFault info w).v = s.v := rfl
@[simp] theorem State.takeFault_i (info : FaultInfo) (w : Option Word) : (s.takeFault info w).i = s.i := rfl
@[simp] theorem State.takeFault_pc (info : FaultInfo) (w : Option Word) : (s.takeFault info w).pc = s.pc := rfl
@[simp] theorem State.takeFault_sp (info : FaultInfo) (w : Option Word) : (s.takeFault info w).sp = s.sp := rfl
@[simp] theorem State.takeFault_stack (info : FaultInfo) (w : Option Word) : (s.takeFault info w).stack = s.stack := rfl
@[simp] theorem State.takeFault_dt (info : FaultInfo) (w : Option Word) : (s.takeFault info w).dt = s.dt := rfl
@[simp] theorem State.takeFault_st (info : FaultInfo) (w : Option Word) : (s.takeFault info w).st = s.st := rfl
@[simp] theorem State.takeFault_fb (info : FaultInfo) (w : Option Word) : (s.takeFault info w).fb = s.fb := rfl
@[simp] theorem State.takeFault_mem (info : FaultInfo) (w : Option Word) : (s.takeFault info w).mem = s.mem := rfl
@[simp] theorem State.takeFault_keys (info : FaultInfo) (w : Option Word) : (s.takeFault info w).keys = s.keys := rfl
@[simp] theorem State.takeFault_run (info : FaultInfo) (w : Option Word) : (s.takeFault info w).run = .faulted ⟨info, s.pc, w⟩ := rfl
@[simp] theorem State.takeFault_fault (info : FaultInfo) (w : Option Word) : (s.takeFault info w).fault = some ⟨info, s.pc, w⟩ := rfl
@[simp] theorem State.takeFault_romSize (info : FaultInfo) (w : Option Word) : (s.takeFault info w).romSize = s.romSize := rfl
@[simp] theorem State.takeFault_loaded (info : FaultInfo) (w : Option Word) : (s.takeFault info w).loaded = s.loaded := rfl
@[simp] theorem State.takeFault_loadFailed (info : FaultInfo) (w : Option Word) : (s.takeFault info w).loadFailed = s.loadFailed := rfl
@[simp] theorem State.takeFault_outputs (info : FaultInfo) (w : Option Word) : (s.takeFault info w).outputs = .faultReport ⟨info, s.pc, w⟩ :: s.outputs := rfl
@[simp] theorem State.takeFault_schedule (info : FaultInfo) (w : Option Word) : (s.takeFault info w).schedule = s.schedule := rfl
@[simp] theorem State.takeFault_randomIn (info : FaultInfo) (w : Option Word) : (s.takeFault info w).randomIn = s.randomIn := rfl
@[simp] theorem State.takeFault_randomCount (info : FaultInfo) (w : Option Word) : (s.takeFault info w).randomCount = s.randomCount := rfl
@[simp] theorem State.takeFault_reg (info : FaultInfo) (w : Option Word) (x : Nibble) : (s.takeFault info w).reg x = s.reg x := rfl
@[simp] theorem State.takeFault_peek (info : FaultInfo) (w : Option Word) (a : Nat) : (s.takeFault info w).peek a = s.peek a := rfl
@[simp] theorem State.takeFault_keyDown (info : FaultInfo) (w : Option Word) (j : Nibble) : (s.takeFault info w).keyDown j = s.keyDown j := rfl

/-! ### Reads after writes -/

theorem State.setReg_reg (r : Nibble) (b : Byte) (x : Nibble) :
    (s.setReg r b).reg x = if x = r then b else s.reg x := by
  simp only [State.reg, State.setReg, Vector.getElem_set]
  by_cases h : x = r
  · subst h; simp
  · have : r.toNat ≠ x.toNat := fun e => h (BitVec.eq_of_toNat_eq e.symm)
    simp [h, this]

@[simp] theorem State.setReg_reg_self (r : Nibble) (b : Byte) : (s.setReg r b).reg r = b := by
  simp [State.setReg_reg]

theorem State.setReg_reg_of_ne (r x : Nibble) (b : Byte) (h : x ≠ r) : (s.setReg r b).reg x = s.reg x := by
  simp [State.setReg_reg, h]

@[simp] theorem State.setFlag_reg (f : Bool) (x : Nibble) :
    (s.setFlag f).reg x = if x = VF then flagByte f else s.reg x := State.setReg_reg s VF (flagByte f) x

@[simp] theorem State.setRegs_reg (v : Vector Byte 16) (x : Nibble) : (s.setRegs v).reg x = v[x.toNat]'x.isLt := rfl

@[simp] theorem State.setMem_peek (m : Memory) (a : Nat) : (s.setMem m).peek a = m.get a := rfl

theorem State.setKey_keyDown (k : Nibble) (b : Bool) (j : Nibble) :
    (s.setKey k b).keyDown j = if j = k then b else s.keyDown j := by
  simp only [State.keyDown, State.setKey, Vector.getElem_set]
  by_cases h : j = k
  · subst h; simp
  · have : k.toNat ≠ j.toNat := fun e => h (BitVec.eq_of_toNat_eq e.symm)
    simp [h, this]

@[simp] theorem State.setSchedule_self (ts : List Turn) (h : s.schedule = ts) : s.setSchedule ts = s := by
  subst h; rfl

end

end Sys2Proof.Machine
end

