-- ==== Sys2Proof/Laws/Framebuffer.lean ====
section
/-! SUPPORT. The framebuffer, and everything a draw does to it (R101): the target pixels are XORed with the sprite's
bits, no pixel is visited twice, every other pixel stays, and the flag says whether a set pixel was cleared. -/

namespace Sys2Proof.Machine

theorem Framebuffer.get_set (fb : Framebuffer) (r r' : Fin 32) (c c' : Fin 64) (b : Bool) :
    (fb.set r c b).get r' c' = if r' = r ∧ c' = c then b else fb.get r' c' := by
  unfold Framebuffer.get Framebuffer.set
  by_cases hr : r' = r
  · subst hr
    by_cases hc : c' = c
    · subst hc; simp
    · have : c.val ≠ c'.val := fun e => hc (Fin.ext e.symm)
      simp [hc, Vector.getElem_set_ne, this]
  · have : r.val ≠ r'.val := fun e => hr (Fin.ext e.symm)
    simp [hr, Vector.getElem_set_ne, this]

@[simp] theorem Framebuffer.get_clear (r : Fin 32) (c : Fin 64) : Framebuffer.clear.get r c = false := by
  simp [Framebuffer.clear, Framebuffer.get]

/-- Framebuffers with equal pixels are equal. -/
theorem Framebuffer.ext_get {f g : Framebuffer} (h : ∀ r c, f.get r c = g.get r c) : f = g := by
  ext r hr c hc
  exact h ⟨r, hr⟩ ⟨c, hc⟩

theorem spriteCol_inj {ox i k : Nat} (hi : i < 8) (hk : k < 8) (h : spriteCol ox i = spriteCol ox k) : i = k := by
  have := congrArg Fin.val h
  simp only [spriteCol, Fin.val_ofNat] at this
  omega

theorem spriteRow_inj {oy j k : Nat} (hj : j < 32) (hk : k < 32) (h : spriteRow oy j = spriteRow oy k) : j = k := by
  have := congrArg Fin.val h
  simp only [spriteRow, Fin.val_ofNat] at this
  omega

theorem DrawState.pixel_get (d : DrawState) (r r' : Fin 32) (c c' : Fin 64) (bit : Bool) :
    (d.pixel r c bit).fb.get r' c' = (d.fb.get r' c' ^^ (decide (r' = r ∧ c' = c) && bit)) := by
  simp only [DrawState.pixel, Framebuffer.get_set]
  by_cases h : r' = r ∧ c' = c
  · obtain ⟨rfl, rfl⟩ := h; simp
  · simp [h]

/-! ### One sprite row -/

/-- A pixel outside the row, or in a column the bits below `k` do not reach, stays. -/
theorem DrawState.row_get_other (r r' : Fin 32) (c' : Fin 64) (ox : Nat) (b : Byte) (k : Nat) (d : DrawState)
    (h : ∀ i < k, ¬(r' = r ∧ c' = spriteCol ox i)) : (d.row r ox b k).fb.get r' c' = d.fb.get r' c' := by
  induction k generalizing d with
  | zero => rfl
  | succ k ih =>
    rw [DrawState.row, ih _ fun i hi => h i (by omega), DrawState.pixel_get]
    simp [h k (by omega)]

/-- The pixel of bit `i` is XORed with the bit. -/
theorem DrawState.row_get_target (r : Fin 32) (ox : Nat) (b : Byte) (k : Nat) (hk : k ≤ 8) (d : DrawState)
    (i : Nat) (hi : i < k) :
    (d.row r ox b k).fb.get r (spriteCol ox i) = (d.fb.get r (spriteCol ox i) ^^ b.getLsbD i) := by
  induction k generalizing d with
  | zero => omega
  | succ k ih =>
    rw [DrawState.row]
    by_cases hik : i = k
    · subst hik
      rw [DrawState.row_get_other, DrawState.pixel_get]
      · simp
      · rintro j hj ⟨-, e⟩
        exact absurd (spriteCol_inj (by omega) (by omega) e) (by omega)
    · rw [ih (by omega) _ (by omega), DrawState.pixel_get]
      have : ¬ spriteCol ox i = spriteCol ox k := fun e => hik (spriteCol_inj (by omega) (by omega) e)
      simp [this]

/-- The flag after a row. -/
theorem DrawState.row_collision (r : Fin 32) (ox : Nat) (b : Byte) (k : Nat) (hk : k ≤ 8) (d : DrawState) :
    (d.row r ox b k).collision = true ↔
      d.collision = true ∨ ∃ i < k, d.fb.get r (spriteCol ox i) = true ∧ b.getLsbD i = true := by
  induction k generalizing d with
  | zero => simp [DrawState.row]
  | succ k ih =>
    rw [DrawState.row, ih (by omega)]
    have hp : ∀ i < k, (d.pixel r (spriteCol ox k) (b.getLsbD k)).fb.get r (spriteCol ox i)
        = d.fb.get r (spriteCol ox i) := by
      intro i hi
      have : ¬ spriteCol ox i = spriteCol ox k := fun e => absurd (spriteCol_inj (by omega) (by omega) e) (by omega)
      simp [DrawState.pixel_get, this]
    simp only [DrawState.pixel, Bool.or_eq_true, Bool.and_eq_true]
    constructor
    · rintro ((h | h) | ⟨i, hi, h, hb⟩)
      · exact .inl h
      · exact .inr ⟨k, by omega, h⟩
      · exact .inr ⟨i, by omega, (hp i hi) ▸ h, hb⟩
    · rintro (h | ⟨i, hi, h, hb⟩)
      · exact .inl (.inl h)
      · by_cases e : i = k
        · subst e; exact .inl (.inr ⟨h, hb⟩)
        · exact .inr ⟨i, by omega, (hp i (by omega)).symm ▸ h, hb⟩

/-! ### The rows of a sprite -/

theorem DrawState.rows_get_other (ox oy : Nat) (r' : Fin 32) (c' : Fin 64) (bs : List Byte) (j : Nat) (d : DrawState)
    (h : ∀ k < bs.length, ∀ i < 8, ¬(r' = spriteRow oy (j + k) ∧ c' = spriteCol ox i)) :
    (d.rows ox oy j bs).fb.get r' c' = d.fb.get r' c' := by
  induction bs generalizing j d with
  | nil => rfl
  | cons b bs ih =>
    rw [DrawState.rows, ih]
    · exact DrawState.row_get_other _ _ _ _ _ _ _ fun i hi => by simpa using h 0 (by simp) i hi
    · intro k hk i hi
      have := h (k + 1) (by simpa using hk) i hi
      rwa [show j + (k + 1) = j + 1 + k by omega] at this

theorem DrawState.rows_get_target (ox oy : Nat) (bs : List Byte) (j : Nat) (hj : j + bs.length ≤ 32) (d : DrawState)
    (k : Nat) (hk : k < bs.length) (i : Nat) (hi : i < 8) :
    (d.rows ox oy j bs).fb.get (spriteRow oy (j + k)) (spriteCol ox i) =
      (d.fb.get (spriteRow oy (j + k)) (spriteCol ox i) ^^ bs[k].getLsbD i) := by
  induction bs generalizing j k d with
  | nil => simp at hk
  | cons b bs ih =>
    simp only [List.length_cons] at hj hk
    rw [DrawState.rows]
    cases k with
    | zero =>
      rw [DrawState.rows_get_other]
      · simpa using DrawState.row_get_target (spriteRow oy j) ox b 8 (by omega) d i hi
      · rintro k hk' m - ⟨e, -⟩
        exact absurd (spriteRow_inj (by omega) (by omega) e) (by omega)
    | succ k =>
      have := ih (j + 1) (by omega) (d.row (spriteRow oy j) ox b 8) k (by omega)
      rw [show j + (k + 1) = j + 1 + k by omega]
      rw [this, DrawState.row_get_other]
      · rfl
      · rintro m - ⟨e, -⟩
        exact absurd (spriteRow_inj (by omega) (by omega) e) (by omega)

theorem DrawState.rows_collision (ox oy : Nat) (bs : List Byte) (j : Nat) (hj : j + bs.length ≤ 32) (d : DrawState) :
    (d.rows ox oy j bs).collision = true ↔
      d.collision = true ∨ ∃ k, ∃ hk : k < bs.length, ∃ i < 8,
        d.fb.get (spriteRow oy (j + k)) (spriteCol ox i) = true ∧ bs[k].getLsbD i = true := by
  induction bs generalizing j d with
  | nil => simp [DrawState.rows]
  | cons b bs ih =>
    simp only [List.length_cons] at hj
    rw [DrawState.rows, ih (j + 1) (by omega), DrawState.row_collision _ _ _ _ (by omega)]
    have hp : ∀ k < bs.length, ∀ i, (d.row (spriteRow oy j) ox b 8).fb.get (spriteRow oy (j + 1 + k)) (spriteCol ox i)
        = d.fb.get (spriteRow oy (j + 1 + k)) (spriteCol ox i) := by
      intro k hk i
      refine DrawState.row_get_other _ _ _ _ _ _ _ ?_
      rintro m - ⟨e, -⟩
      exact absurd (spriteRow_inj (by omega) (by omega) e) (by omega)
    constructor
    · rintro ((h | ⟨i, hi, h, hb⟩) | ⟨k, hk, i, hi, h, hb⟩)
      · exact .inl h
      · exact .inr ⟨0, by simp, i, hi, h, by simpa using hb⟩
      · refine .inr ⟨k + 1, by simpa using hk, i, hi, ?_, by simpa using hb⟩
        rw [show j + (k + 1) = j + 1 + k by omega, ← hp k hk i]; exact h
    · rintro (h | ⟨k, hk, i, hi, h, hb⟩)
      · exact .inl (.inl h)
      · cases k with
        | zero => exact .inl (.inr ⟨i, hi, h, by simpa using hb⟩)
        | succ k =>
          simp only [List.length_cons] at hk
          refine .inr ⟨k, by omega, i, hi, ?_, by simpa using hb⟩
          rw [hp k (by omega) i, show j + 1 + k = j + (k + 1) by omega]; exact h

/-! ### A whole draw (R101) -/

theorem drawSprite_target (fb : Framebuffer) (ox oy : Nat) (bs : List Byte) (hn : bs.length ≤ 32)
    (j : Nat) (hj : j < bs.length) (i : Nat) (hi : i < 8) :
    (drawSprite fb ox oy bs).fb.get (spriteRow oy j) (spriteCol ox i) =
      (fb.get (spriteRow oy j) (spriteCol ox i) ^^ bs[j].getLsbD i) := by
  simpa [drawSprite] using DrawState.rows_get_target ox oy bs 0 (by omega) ⟨fb, false⟩ j hj i hi

theorem drawSprite_other (fb : Framebuffer) (ox oy : Nat) (bs : List Byte) (r : Fin 32) (c : Fin 64)
    (h : ∀ j < bs.length, ∀ i < 8, ¬(r = spriteRow oy j ∧ c = spriteCol ox i)) :
    (drawSprite fb ox oy bs).fb.get r c = fb.get r c :=
  DrawState.rows_get_other ox oy r c bs 0 ⟨fb, false⟩ (by simpa using h)

theorem drawSprite_collision (fb : Framebuffer) (ox oy : Nat) (bs : List Byte) (hn : bs.length ≤ 32) :
    (drawSprite fb ox oy bs).collision = true ↔
      ∃ j, ∃ hj : j < bs.length, ∃ i < 8,
        fb.get (spriteRow oy j) (spriteCol ox i) = true ∧ bs[j].getLsbD i = true := by
  simpa [drawSprite] using DrawState.rows_collision ox oy bs 0 (by omega) ⟨fb, false⟩

end Sys2Proof.Machine
end

