-- ==== Sys2Proof/Laws/Memory.lean ====
section
/-! SUPPORT. Memory: read after write, the canonical form, and equal reads make equal memories. -/

namespace Sys2Proof.Machine

theorem Memory.wfFrom_cons {lo a : Nat} {b : Byte} {m : Memory} :
    Memory.wfFrom lo ((a, b) :: m) = true ↔
      lo ≤ a ∧ a < Config.memSize ∧ b ≠ Memory.unlisted a ∧ Memory.wfFrom (a + 1) m = true := by
  simp only [Memory.wfFrom, Bool.and_eq_true, decide_eq_true_eq, and_assoc]

theorem Memory.wfFrom_mono {lo hi : Nat} {m : Memory} (h : Memory.wfFrom hi m = true) (hle : lo ≤ hi) :
    Memory.wfFrom lo m = true := by
  cases m with
  | nil => rfl
  | cons c m =>
    obtain ⟨ha, hb, hc, hd⟩ := Memory.wfFrom_cons.1 h
    exact Memory.wfFrom_cons.2 ⟨by omega, hb, hc, hd⟩

/-- Below the canonical range nothing is listed. -/
theorem Memory.get_below {lo a : Nat} {m : Memory} (h : Memory.wfFrom lo m = true) (ha : a < lo) :
    m.get a = Memory.unlisted a := by
  cases m with
  | nil => rfl
  | cons c m =>
    obtain ⟨c, u⟩ := c
    have hc := (Memory.wfFrom_cons.1 h).1
    simp only [Memory.get]
    rw [if_neg (by omega), if_neg (by omega)]

theorem Memory.put_wfFrom {a : Nat} {b : Byte} {m : Memory} (ha : a < Config.memSize)
    (h : Memory.wfFrom (a + 1) m = true) : Memory.wfFrom a (Memory.put a b m) = true := by
  unfold Memory.put
  split
  · exact Memory.wfFrom_mono h (by omega)
  · rename_i hb
    exact Memory.wfFrom_cons.2 ⟨by omega, ha, hb, h⟩

theorem Memory.put_get {a : Nat} {b : Byte} {m : Memory} (h : Memory.wfFrom (a + 1) m = true) (x : Nat) :
    (Memory.put a b m).get x = if x = a then b else m.get x := by
  unfold Memory.put
  split
  · rename_i hb
    split
    · rename_i hx; subst hx; rw [hb, Memory.get_below h (by omega)]
    · rfl
  · simp only [Memory.get]
    rcases Nat.lt_trichotomy a x with hx | hx | hx
    · rw [if_pos hx, if_neg (by omega)]
    · subst hx; rw [if_neg (by omega), if_pos rfl, if_pos rfl]
    · rw [if_neg (by omega), if_neg (by omega), if_neg (by omega), Memory.get_below h (by omega)]

/-- A write keeps the canonical form. -/
theorem Memory.set_wfFrom {lo a : Nat} {b : Byte} {m : Memory} (hlo : lo ≤ a) (ha : a < Config.memSize)
    (h : Memory.wfFrom lo m = true) : Memory.wfFrom lo (m.set a b) = true := by
  induction m generalizing lo with
  | nil => exact Memory.wfFrom_mono (Memory.put_wfFrom ha rfl) hlo
  | cons c m ih =>
    obtain ⟨c, u⟩ := c
    obtain ⟨h1, h2, h3, h4⟩ := Memory.wfFrom_cons.1 h
    simp only [Memory.set]
    split
    · exact Memory.wfFrom_cons.2 ⟨h1, h2, h3, ih (by omega) h4⟩
    · split
      · rename_i e; subst e
        exact Memory.wfFrom_mono (Memory.put_wfFrom ha h4) hlo
      · exact Memory.wfFrom_mono
          (Memory.put_wfFrom ha (Memory.wfFrom_cons.2 ⟨by omega, h2, h3, h4⟩)) hlo

/-- A read after a write: the byte written there, every other address as before. -/
theorem Memory.get_set {lo a : Nat} {b : Byte} {m : Memory} (h : Memory.wfFrom lo m = true) (x : Nat) :
    (m.set a b).get x = if x = a then b else m.get x := by
  induction m generalizing lo with
  | nil => exact Memory.put_get rfl x
  | cons c m ih =>
    obtain ⟨c, u⟩ := c
    obtain ⟨h1, h2, h3, h4⟩ := Memory.wfFrom_cons.1 h
    simp only [Memory.set]
    split
    · simp only [Memory.get]
      rw [ih h4]
      grind
    · split
      · rename_i e; subst e
        rw [Memory.put_get h4]
        simp only [Memory.get]
        rcases Nat.lt_trichotomy c x with hx | hx | hx
        · rw [if_neg (by omega), if_neg (by omega), if_pos hx]
        · subst hx; simp
        · rw [if_neg (by omega), if_neg (by omega), if_neg (by omega), if_neg (by omega),
            Memory.get_below h4 (by omega)]
      · rw [Memory.put_get (Memory.wfFrom_cons.2 ⟨by omega, h2, h3, h4⟩)]

theorem Memory.set_wf {m : Memory} {a : Nat} {b : Byte} (h : m.wf = true) (ha : a < Config.memSize) :
    (m.set a b).wf = true := Memory.set_wfFrom (Nat.zero_le _) ha h

/-- Writing a run of bytes keeps the canonical form. -/
theorem Memory.setBytes_wf {m : Memory} (h : m.wf = true) (a : Nat) (bs : List Byte)
    (hb : bs = [] ∨ a + bs.length ≤ Config.memSize) : (m.setBytes a bs).wf = true := by
  induction bs generalizing a with
  | nil => exact h
  | cons b bs ih =>
    have hb : a + (bs.length + 1) ≤ Config.memSize := by simpa using hb
    exact Memory.set_wf (ih (a + 1) (.inr (by omega))) (by omega)

/-- What a run of written bytes reads as: the bytes there, every other address as before. -/
theorem Memory.get_setBytes {m : Memory} (h : m.wf = true) (a : Nat) (bs : List Byte)
    (hb : bs = [] ∨ a + bs.length ≤ Config.memSize) (x : Nat) :
    (m.setBytes a bs).get x = if a ≤ x ∧ x < a + bs.length then bs.getD (x - a) 0 else m.get x := by
  induction bs generalizing a with
  | nil => rw [if_neg (by rintro ⟨h1, h2⟩; rw [List.length_nil] at h2; omega)]; rfl
  | cons b bs ih =>
    have hb' : a + (bs.length + 1) ≤ Config.memSize := by simpa using hb
    have hw := Memory.setBytes_wf h (a + 1) bs (.inr (by omega))
    simp only [Memory.setBytes, List.length_cons]
    rw [Memory.get_set hw, ih (a + 1) (.inr (by omega))]
    rcases Nat.lt_trichotomy x a with hx | hx | hx
    · rw [if_neg (by omega), if_neg (by omega), if_neg (by omega)]
    · subst hx; simp
    · obtain ⟨k, rfl⟩ : ∃ k, x = a + 1 + k := ⟨x - (a + 1), by omega⟩
      rw [if_neg (by omega)]
      have e1 : a + 1 + k - (a + 1) = k := by omega
      have e2 : a + 1 + k - a = k + 1 := by omega
      rw [e1, e2, List.getD_cons_succ]
      by_cases hk : k < bs.length
      · rw [if_pos (by omega), if_pos (by omega)]
      · rw [if_neg (by omega), if_neg (by omega)]

/-- Canonical memories that read alike are equal. -/
theorem Memory.ext_get {lo : Nat} {m m' : Memory} (h : Memory.wfFrom lo m = true) (h' : Memory.wfFrom lo m' = true)
    (e : ∀ a, m.get a = m'.get a) : m = m' := by
  induction m generalizing lo m' with
  | nil =>
    cases m' with
    | nil => rfl
    | cons c m' =>
      obtain ⟨c, u⟩ := c
      have hc := (Memory.wfFrom_cons.1 h').2.2.1
      exact absurd (by simpa [Memory.get] using (e c).symm) hc
  | cons c m ih =>
    obtain ⟨c, u⟩ := c
    obtain ⟨h1, h2, h3, h4⟩ := Memory.wfFrom_cons.1 h
    cases m' with
    | nil => exact absurd (by simpa [Memory.get] using e c) h3
    | cons c' m' =>
      obtain ⟨c', u'⟩ := c'
      obtain ⟨k1, k2, k3, k4⟩ := Memory.wfFrom_cons.1 h'
      have hcc : c = c' := by
        rcases Nat.lt_trichotomy c c' with hx | hx | hx
        · exact absurd (by simpa [Memory.get, Nat.not_lt.2 (Nat.le_of_lt hx), show ¬ c' = c by omega] using e c) h3
        · exact hx
        · exact absurd (by simpa [Memory.get, Nat.not_lt.2 (Nat.le_of_lt hx), show ¬ c = c' by omega] using (e c').symm) k3
      subst hcc
      have hu : u = u' := by simpa [Memory.get] using e c
      subst hu
      congr 1
      refine ih h4 k4 fun a => ?_
      rcases Nat.lt_trichotomy c a with hx | hx | hx
      · simpa [Memory.get, hx] using e a
      · subst hx; rw [Memory.get_below h4 (by omega), Memory.get_below k4 (by omega)]
      · rw [Memory.get_below h4 (by omega), Memory.get_below k4 (by omega)]

theorem State.reset_mem_wf : State.reset.mem.wf = true := rfl

/-! ## The range check (R56) -/

/-- The check answers the lowest address of the range that does not exist, if there is one. -/
theorem firstBeyond_eq (base count : Nat) :
    firstBeyond base count =
      if count = 0 ∨ base + count ≤ Config.memSize then none else some (max base Config.memSize) := by
  induction count generalizing base with
  | zero => simp [firstBeyond]
  | succ n ih =>
    simp only [firstBeyond, ih]
    by_cases h : Config.memSize ≤ base
    · rw [if_pos h, if_neg (by omega)]; congr 1; omega
    · rw [if_neg h]
      by_cases h2 : base + (n + 1) ≤ Config.memSize
      · rw [if_pos (by omega), if_pos (by omega)]
      · rw [if_neg (by omega), if_neg (by omega)]; congr 1; omega

theorem firstBeyond_eq_none {base count : Nat} (h : count = 0 ∨ base + count ≤ Config.memSize) :
    firstBeyond base count = none := by
  rw [firstBeyond_eq, if_pos h]

theorem firstBeyond_eq_some {base count : Nat} (h : count ≠ 0) (h' : Config.memSize < base + count) :
    firstBeyond base count = some (max base Config.memSize) := by
  rw [firstBeyond_eq, if_neg (by omega)]

/-- Everything a range-checked instruction can do. -/
theorem withRange_cases (i : Instr) (access : Access) (base count : Nat) (s body : State) :
    ((count = 0 ∨ base + count ≤ Config.memSize) ∧ withRange i access base count s body = .next body) ∨
    (count ≠ 0 ∧ Config.memSize < base + count ∧
      withRange i access base count s body =
        .next (s.takeFault (.memOutOfBounds (max base Config.memSize) access) (some (encode i)))) := by
  by_cases h : count = 0 ∨ base + count ≤ Config.memSize
  · exact .inl ⟨h, by simp [withRange, firstBeyond_eq_none h]⟩
  · have h1 : count ≠ 0 := by omega
    have h2 : Config.memSize < base + count := by omega
    exact .inr ⟨h1, h2, by simp [withRange, raise, firstBeyond_eq_some h1 h2]⟩

/-- Everything the fetch can find (R80, R82). -/
theorem State.fetch_cases (s : State) :
    (s.pc.toNat + 1 < Config.memSize ∧
      s.fetch = .word (wordOfBytes (s.peek s.pc.toNat) (s.peek (s.pc.toNat + 1)))) ∨
    (Config.memSize ≤ s.pc.toNat + 1 ∧ s.fetch = .beyond (max s.pc.toNat Config.memSize)) := by
  unfold State.fetch
  by_cases h : s.pc.toNat + 1 < Config.memSize
  · exact .inl ⟨h, by rw [firstBeyond_eq_none (.inr (by omega))]⟩
  · exact .inr ⟨by omega, by rw [firstBeyond_eq_some (by omega) (by omega)]⟩

end Sys2Proof.Machine
end

