-- ==== Sys2Proof/Laws/Operands.lean ====
section
/-! SUPPORT. The operand forms and the composed updates: what each is, said once. -/

namespace Sys2Proof.Machine

@[simp] theorem State.base_eq (s : State) : s.base = s.i.toNat := rfl

@[simp] theorem State.write_eq (s : State) (x : Nibble) (b : Byte) : s.write x b = (s.setReg x b).advance := rfl

@[simp] theorem State.peekBytes_length (s : State) (base count : Nat) : (s.peekBytes base count).length = count := by
  simp [State.peekBytes]

@[simp] theorem State.peekBytes_getElem (s : State) (base count j : Nat) (h : j < (s.peekBytes base count).length) :
    (s.peekBytes base count)[j] = s.peek (base + j) := by
  simp [State.peekBytes]

@[simp] theorem State.regsUpTo_length (s : State) (x : Nibble) : (s.regsUpTo x).length = x.toNat + 1 := by
  simp [State.regsUpTo]

theorem State.regsUpTo_getD (s : State) (x : Nibble) (r : Nat) (h : r ≤ x.toNat) (d : Byte) :
    (s.regsUpTo x).getD r d = s.reg (BitVec.ofNat 4 r) := by
  simp [State.regsUpTo, List.getD_eq_getElem?_getD, List.getElem?_range (show r < x.toNat + 1 by omega)]

/-- What the registers read as after a load of `V[0]` to `V[x]` (R145). -/
@[simp] theorem State.regsFrom_reg (s : State) (base : Nat) (x r : Nibble) :
    (s.setRegs (s.regsFrom base x)).reg r = if r.toNat ≤ x.toNat then s.peek (base + r.toNat) else s.reg r := by
  simp [State.regsFrom, State.reg]

theorem keyNumber_of_lt {b : Byte} (h : b.toNat < 16) : keyNumber b = some (b.setWidth 4) := if_pos h

theorem keyNumber_of_ge {b : Byte} (h : 16 ≤ b.toNat) : keyNumber b = none := if_neg (by omega)

@[simp] theorem bcd_length (b : Byte) : (bcd b).length = 3 := rfl

theorem addrWord_toNat (nnn : Addr) : (addrWord nnn).toNat = nnn.toNat := by
  have := nnn.isLt
  simp [addrWord]; omega

theorem byteWord_toNat (b : Byte) : (byteWord b).toNat = b.toNat := by
  have := b.isLt
  simp [byteWord]; omega

theorem glyphAddr_toNat (b : Byte) : (glyphAddr b).toNat = 5 * b.toNat := by
  have := b.isLt
  simp [glyphAddr, Config.fontBase, Config.fontGlyphBytes]; omega

theorem flagByte_toNat (f : Bool) : (flagByte f).toNat = if f then 1 else 0 := by
  cases f <;> rfl

/-- The draw the environment supplies is the next draw. -/
theorem State.randomByte_of_cons {s : State} {b : Byte} {bs : List Byte} (h : s.randomIn = b :: bs) :
    s.randomByte = b := by
  simp [State.randomByte, h]

/-- Where it supplies none, the draw is the free value of this draw's number. -/
theorem State.randomByte_of_nil {s : State} (h : s.randomIn = []) : s.randomByte = Config.randomByte s.randomCount := by
  simp [State.randomByte, h]

end Sys2Proof.Machine
end

