-- ==== Sys2Proof/Laws/Frames.lean ====
section
/-! SUPPORT. Frames compose, and the shared operations that take a fault leave the state R202 describes. -/

namespace Sys2Proof.Machine

@[simp] theorem Piece.Same.refl (p : Piece) (s : State) : p.Same s s := by
  cases p <;> simp [Piece.Same]

theorem Piece.Same.trans {p : Piece} {s t u : State} (h : p.Same s t) (h' : p.Same t u) : p.Same s u := by
  cases p <;> simp_all [Piece.Same]

theorem Keeps.refl (s : State) (ps : List Piece) (rs : List Nibble) (base len : Nat) : Keeps s s ps rs base len :=
  ⟨fun p _ => Piece.Same.refl p s, fun _ _ => rfl, fun _ _ => rfl⟩

/-- Two steps keep what both keep. -/
theorem Keeps.trans {s t u : State} {ps : List Piece} {rs : List Nibble} {base len : Nat}
    (h : Keeps s t ps rs base len) (h' : Keeps t u ps rs base len) : Keeps s u ps rs base len :=
  ⟨fun p hp => (h.1 p hp).trans (h'.1 p hp), fun r hr => (h'.2.1 r hr).trans (h.2.1 r hr),
    fun a ha => (h'.2.2 a ha).trans (h.2.2 a ha)⟩

/-- A frame may be read as a weaker one. -/
theorem Keeps.mono {s t : State} {ps qs : List Piece} {rs rs' : List Nibble} {base len : Nat}
    (h : Keeps s t ps rs base len) (hp : ∀ p ∈ ps, p ∈ qs) (hr : ∀ r ∈ rs, r ∈ rs') : Keeps s t qs rs' base len :=
  ⟨fun p hq => h.1 p fun e => hq (hp p e), fun r hq => h.2.1 r fun e => hq (hr r e), h.2.2⟩

/-- A step that stores nothing keeps what lies outside any range. -/
theorem Keeps.widen {s t : State} {ps : List Piece} {rs : List Nibble} (h : KeepsAllBut s t ps rs) (base len : Nat) :
    Keeps s t ps rs base len := ⟨h.1, h.2.1, fun a _ => h.2.2 a (.inr (Nat.zero_le a))⟩

theorem State.takeFault_eq (s : State) (info : FaultInfo) (w : Option Word) : s.takeFault info w = s.faulted info w := rfl

theorem raise_eq (i : Instr) (info : FaultInfo) (s : State) :
    raise i info s = .next (s.faulted info (some (encode i))) := rfl

theorem State.fetchFault_eq (s : State) (a : Nat) : s.fetchFault a = s.faulted (.memOutOfBounds a .fetch) none := rfl

/-- The bytes a store wrote, and every other byte (R143, R144). -/
theorem State.setBytes_peek {s : State} (h : s.mem.wf = true) (a : Nat) (bs : List Byte)
    (hb : bs = [] ∨ a + bs.length ≤ Config.memSize) (x : Nat) :
    (s.setMem (s.mem.setBytes a bs)).peek x =
      if a ≤ x ∧ x < a + bs.length then bs.getD (x - a) 0 else s.peek x := Memory.get_setBytes h a bs hb x

theorem inRange_iff {base count : Nat} :
    InRange base count ↔ count = 0 ∨ base + count ≤ Config.memSize := by
  constructor
  · intro h
    cases count with
    | zero => exact .inl rfl
    | succ n => have := h n (by omega); omega
  · intro h j hj; omega

theorem lowestBeyond_iff {base count a : Nat} :
    LowestBeyond base count a ↔
      count ≠ 0 ∧ Config.memSize < base + count ∧ a = max base Config.memSize := by
  constructor
  · rintro ⟨j, hj, rfl, hge, hlow⟩
    refine ⟨by omega, by omega, ?_⟩
    cases j with
    | zero => omega
    | succ j => have := hlow j (by omega); omega
  · rintro ⟨h1, h2, rfl⟩
    exact ⟨max base Config.memSize - base, by omega, by omega, by omega, fun k hk => by omega⟩

/-- A range-checked instruction whose addresses all exist does what it does. -/
theorem withRange_of_inRange {i : Instr} {access : Access} {base count : Nat} {s body : State}
    (h : InRange base count) : withRange i access base count s body = .next body := by
  simp [withRange, firstBeyond_eq_none (inRange_iff.1 h)]

/-- One whose lowest address that does not exist is `a` faults there. -/
theorem withRange_of_lowestBeyond {i : Instr} {access : Access} {base count a : Nat} {s body : State}
    (h : LowestBeyond base count a) :
    withRange i access base count s body = .next (s.faulted (.memOutOfBounds a access) (some (encode i))) := by
  obtain ⟨h1, h2, rfl⟩ := lowestBeyond_iff.1 h
  simp [withRange, firstBeyond_eq_some h1 h2, raise_eq]

end Sys2Proof.Machine
end

