-- ==== Sys2Proof/Laws/PerInstr.lean ====
section
/-! SUPPORT. The family `Encoding`, one lemma a constructor: an instruction's word lies in its own row of the opcode
map (R75). -/

namespace Sys2Proof.Laws.Encoding

/-- The instruction's word matches the row of its mnemonic. -/
def Statement (i : Instr) : Prop :=
  ∃ row ∈ opcodeMap, row.mnemonic = i.mnemonic ∧ encode i &&& row.mask = row.bits

theorem cls (ign : Nibble) : Statement (.cls ign) :=
  ⟨⟨0xF0FF, 0x00E0, "CLS"⟩, by decide, rfl, by rw [encode, encXKK_and_byte]; rfl⟩

theorem ret (ign : Nibble) : Statement (.ret ign) :=
  ⟨⟨0xF0FF, 0x00EE, "RET"⟩, by decide, rfl, by rw [encode, encXKK_and_byte]; rfl⟩

theorem jp (nnn : Addr) : Statement (.jp nnn) :=
  ⟨⟨0xF000, 0x1000, "JP_nnn"⟩, by decide, rfl, by rw [encode, encNNN_and_class]; rfl⟩

theorem call (nnn : Addr) : Statement (.call nnn) :=
  ⟨⟨0xF000, 0x2000, "CALL_nnn"⟩, by decide, rfl, by rw [encode, encNNN_and_class]; rfl⟩

theorem seImm (x : Nibble) (kk : Byte) : Statement (.seImm x kk) :=
  ⟨⟨0xF000, 0x3000, "SE_Vx__kk"⟩, by decide, rfl, by rw [encode, encXKK_and_class]; rfl⟩

theorem sneImm (x : Nibble) (kk : Byte) : Statement (.sneImm x kk) :=
  ⟨⟨0xF000, 0x4000, "SNE_Vx__kk"⟩, by decide, rfl, by rw [encode, encXKK_and_class]; rfl⟩

theorem seReg (x y ign : Nibble) : Statement (.seReg x y ign) :=
  ⟨⟨0xF000, 0x5000, "SE_Vx__Vy"⟩, by decide, rfl, by rw [encode, encXYN_and_class]; rfl⟩

theorem ldImm (x : Nibble) (kk : Byte) : Statement (.ldImm x kk) :=
  ⟨⟨0xF000, 0x6000, "LD_Vx__kk"⟩, by decide, rfl, by rw [encode, encXKK_and_class]; rfl⟩

theorem addImm (x : Nibble) (kk : Byte) : Statement (.addImm x kk) :=
  ⟨⟨0xF000, 0x7000, "ADD_Vx__kk"⟩, by decide, rfl, by rw [encode, encXKK_and_class]; rfl⟩

theorem ldReg (x y : Nibble) : Statement (.ldReg x y) :=
  ⟨⟨0xF00F, 0x8000, "LD_Vx__Vy"⟩, by decide, rfl, by rw [encode, encXYN_and_nibble]; rfl⟩

theorem orReg (x y : Nibble) : Statement (.orReg x y) :=
  ⟨⟨0xF00F, 0x8001, "OR_Vx__Vy"⟩, by decide, rfl, by rw [encode, encXYN_and_nibble]; rfl⟩

theorem andReg (x y : Nibble) : Statement (.andReg x y) :=
  ⟨⟨0xF00F, 0x8002, "AND_Vx__Vy"⟩, by decide, rfl, by rw [encode, encXYN_and_nibble]; rfl⟩

theorem xorReg (x y : Nibble) : Statement (.xorReg x y) :=
  ⟨⟨0xF00F, 0x8003, "XOR_Vx__Vy"⟩, by decide, rfl, by rw [encode, encXYN_and_nibble]; rfl⟩

theorem addReg (x y : Nibble) : Statement (.addReg x y) :=
  ⟨⟨0xF00F, 0x8004, "ADD_Vx__Vy"⟩, by decide, rfl, by rw [encode, encXYN_and_nibble]; rfl⟩

theorem subReg (x y : Nibble) : Statement (.subReg x y) :=
  ⟨⟨0xF00F, 0x8005, "SUB_Vx__Vy"⟩, by decide, rfl, by rw [encode, encXYN_and_nibble]; rfl⟩

theorem shr (x ign : Nibble) : Statement (.shr x ign) :=
  ⟨⟨0xF00F, 0x8006, "SHR_Vx"⟩, by decide, rfl, by rw [encode, encXYN_and_nibble]; rfl⟩

theorem subnReg (x y : Nibble) : Statement (.subnReg x y) :=
  ⟨⟨0xF00F, 0x8007, "SUBN_Vx__Vy"⟩, by decide, rfl, by rw [encode, encXYN_and_nibble]; rfl⟩

theorem shl (x ign : Nibble) : Statement (.shl x ign) :=
  ⟨⟨0xF00F, 0x800E, "SHL_Vx"⟩, by decide, rfl, by rw [encode, encXYN_and_nibble]; rfl⟩

theorem sneReg (x y ign : Nibble) : Statement (.sneReg x y ign) :=
  ⟨⟨0xF000, 0x9000, "SNE_Vx__Vy"⟩, by decide, rfl, by rw [encode, encXYN_and_class]; rfl⟩

theorem ldI (nnn : Addr) : Statement (.ldI nnn) :=
  ⟨⟨0xF000, 0xA000, "LD_I__nnn"⟩, by decide, rfl, by rw [encode, encNNN_and_class]; rfl⟩

theorem jpV0 (nnn : Addr) : Statement (.jpV0 nnn) :=
  ⟨⟨0xF000, 0xB000, "JP_V0__nnn"⟩, by decide, rfl, by rw [encode, encNNN_and_class]; rfl⟩

theorem rnd (x : Nibble) (kk : Byte) : Statement (.rnd x kk) :=
  ⟨⟨0xF000, 0xC000, "RND_Vx__kk"⟩, by decide, rfl, by rw [encode, encXKK_and_class]; rfl⟩

theorem drw (x y n : Nibble) : Statement (.drw x y n) :=
  ⟨⟨0xF000, 0xD000, "DRW_Vx__Vy__n"⟩, by decide, rfl, by rw [encode, encXYN_and_class]; rfl⟩

theorem skp (x : Nibble) : Statement (.skp x) :=
  ⟨⟨0xF0FF, 0xE09E, "SKP_Vx"⟩, by decide, rfl, by rw [encode, encXKK_and_byte]; rfl⟩

theorem sknp (x : Nibble) : Statement (.sknp x) :=
  ⟨⟨0xF0FF, 0xE0A1, "SKNP_Vx"⟩, by decide, rfl, by rw [encode, encXKK_and_byte]; rfl⟩

theorem ldVxDT (x : Nibble) : Statement (.ldVxDT x) :=
  ⟨⟨0xF0FF, 0xF007, "LD_Vx__DT"⟩, by decide, rfl, by rw [encode, encXKK_and_byte]; rfl⟩

theorem ldVxK (x : Nibble) : Statement (.ldVxK x) :=
  ⟨⟨0xF0FF, 0xF00A, "LD_Vx__K"⟩, by decide, rfl, by rw [encode, encXKK_and_byte]; rfl⟩

theorem ldDTVx (x : Nibble) : Statement (.ldDTVx x) :=
  ⟨⟨0xF0FF, 0xF015, "LD_DT__Vx"⟩, by decide, rfl, by rw [encode, encXKK_and_byte]; rfl⟩

theorem ldSTVx (x : Nibble) : Statement (.ldSTVx x) :=
  ⟨⟨0xF0FF, 0xF018, "LD_ST__Vx"⟩, by decide, rfl, by rw [encode, encXKK_and_byte]; rfl⟩

theorem addI (x : Nibble) : Statement (.addI x) :=
  ⟨⟨0xF0FF, 0xF01E, "ADD_I__Vx"⟩, by decide, rfl, by rw [encode, encXKK_and_byte]; rfl⟩

theorem ldF (x : Nibble) : Statement (.ldF x) :=
  ⟨⟨0xF0FF, 0xF029, "LD_F__Vx"⟩, by decide, rfl, by rw [encode, encXKK_and_byte]; rfl⟩

theorem ldB (x : Nibble) : Statement (.ldB x) :=
  ⟨⟨0xF0FF, 0xF033, "LD_B__Vx"⟩, by decide, rfl, by rw [encode, encXKK_and_byte]; rfl⟩

theorem stRegs (x : Nibble) : Statement (.stRegs x) :=
  ⟨⟨0xF0FF, 0xF055, "LD__I___Vx"⟩, by decide, rfl, by rw [encode, encXKK_and_byte]; rfl⟩

theorem ldRegs (x : Nibble) : Statement (.ldRegs x) :=
  ⟨⟨0xF0FF, 0xF065, "LD_Vx___I"⟩, by decide, rfl, by rw [encode, encXKK_and_byte]; rfl⟩

end Sys2Proof.Laws.Encoding
end

