-- ==== Sys2Proof/Laws/Step.lean ====
section
/-! SUPPORT. A run of the core, step by step; what one step can do, said once: which agent moves (R212), and, where the
engine moves, how its step ends (R80). -/

namespace Sys2Proof.Machine

/-- A run of one step more. -/
theorem core_run_succ (k : Nat) {s t : State} (h : step s = .next t) :
    Host.Core.run Sys2Proof.core (k + 1) s = Host.Core.run Sys2Proof.core k t := by
  refine (Host.Core.run.eq_2 Sys2Proof.core s k).trans ?_
  rw [show Sys2Proof.core.step s = .next t from h]

/-- Everything an instruction step can do (R80). -/
theorem instructionStep_cases (s : State) :
    (Config.memSize ≤ s.pc.toNat + 1 ∧
      instructionStep s = .next (s.fetchFault (max s.pc.toNat Config.memSize))) ∨
    (s.pc.toNat + 1 < Config.memSize ∧ ∃ i,
      decodeWord (wordOfBytes (s.peek s.pc.toNat) (s.peek (s.pc.toNat + 1))) = .instr i ∧
      instructionStep s = exec i s) ∨
    (s.pc.toNat + 1 < Config.memSize ∧ ∃ w, w = wordOfBytes (s.peek s.pc.toNat) (s.peek (s.pc.toNat + 1)) ∧
      decodeWord w = .unknownOpcode w ∧ instructionStep s = execUnknown w s) := by
  rcases s.fetch_cases with ⟨h, hf⟩ | ⟨h, hf⟩
  · refine .inr ?_
    simp only [instructionStep, hf]
    rcases decodeWord_cases (wordOfBytes (s.peek s.pc.toNat) (s.peek (s.pc.toNat + 1))) with ⟨i, hd⟩ | hd
    · exact .inl ⟨h, i, hd, by rw [hd]⟩
    · exact .inr ⟨h, _, rfl, hd, by rw [hd]⟩
  · exact .inl ⟨h, by simp [instructionStep, hf]⟩

/-- Everything a step that answers a next state can be: the engine's instruction step; a turn of the engine that is
not enabled; or the step of another agent, applied to the state with the rest of the schedule. -/
theorem step_cases {s t : State} (h : step s = .next t) :
    (s.run = .running ∧ s.schedule = [] ∧ instructionStep s = .next t) ∨
    (∃ ts, s.run = .running ∧ s.schedule = .engine :: ts ∧ instructionStep (s.setSchedule ts) = .next t) ∨
    (∃ ts, s.run ≠ .running ∧ s.schedule = .engine :: ts ∧ t = s.setSchedule ts) ∨
    (∃ ts, s.schedule = .tick :: ts ∧ t = tick (s.setSchedule ts)) ∨
    (∃ k b ts, s.schedule = .keyChange k b :: ts ∧ t = keyChange k b (s.setSchedule ts)) ∨
    (∃ r ts, s.schedule = .loadRom r :: ts ∧ t = loadRom r (s.setSchedule ts)) ∨
    (∃ ts, s.schedule = .start :: ts ∧ t = start (s.setSchedule ts)) ∨
    (∃ ts, s.schedule = .stop :: ts ∧ t = stop (s.setSchedule ts)) := by
  unfold step at h
  split at h
  · rename_i hs
    unfold engineAlone at h
    split at h <;> simp_all
  · rename_i turn ts hs
    cases turn with
    | engine =>
      by_cases hr : s.run = .running
      · rw [takeTurn, if_pos (show (s.setSchedule ts).run = .running from hr)] at h
        exact .inr (.inl ⟨ts, hr, hs, h⟩)
      · rw [takeTurn, if_neg (show ¬ (s.setSchedule ts).run = .running from hr)] at h
        exact .inr (.inr (.inl ⟨ts, hr, hs, (Host.Outcome.next.inj h).symm⟩))
    | tick => exact .inr (.inr (.inr (.inl ⟨ts, hs, (Host.Outcome.next.inj h).symm⟩)))
    | keyChange k b => exact .inr (.inr (.inr (.inr (.inl ⟨k, b, ts, hs, (Host.Outcome.next.inj h).symm⟩))))
    | loadRom r => exact .inr (.inr (.inr (.inr (.inr (.inl ⟨r, ts, hs, (Host.Outcome.next.inj h).symm⟩)))))
    | start => exact .inr (.inr (.inr (.inr (.inr (.inr (.inl ⟨ts, hs, (Host.Outcome.next.inj h).symm⟩))))))
    | stop => exact .inr (.inr (.inr (.inr (.inr (.inr (.inr ⟨ts, hs, (Host.Outcome.next.inj h).symm⟩))))))

/-- A timer counts down and stops at 0 (R206). -/
@[simp] theorem countDown_toNat (b : Byte) : (countDown b).toNat = b.toNat - 1 := by
  unfold countDown
  split <;> bv_omega

/-- The completion of a key wait, or a change of a key and nothing else (R209, R210). -/
theorem keyChange_cases (k : Nibble) (down : Bool) (s : State) :
    (∃ x, s.run = .waitKey x ∧ down = true ∧ s.keyDown k = false ∧
      keyChange k down s = completeWait x k (s.setKey k true)) ∨
    ((∀ x, s.run = .waitKey x → down = true → s.keyDown k = true) ∧ keyChange k down s = s.setKey k down) := by
  unfold keyChange
  split
  · rename_i x hr hd
    obtain ⟨rfl, hk⟩ : down = true ∧ s.keyDown k = false := by simpa using hd
    exact .inl ⟨x, hr, rfl, hk, rfl⟩
  · rename_i hn
    refine .inr ⟨fun x hr hd => ?_, rfl⟩
    cases hk : s.keyDown k with
    | true => rfl
    | false => exact absurd (show (down && !s.keyDown k) = true by simp [hd, hk]) (hn x hr)

/-- Everything LoadRom can do (R231). -/
theorem loadRom_cases (r : LoadResult) (s : State) :
    ((s.run ≠ .idle ∨ s.loaded = true) ∧ loadRom r s = s) ∨
    (s.run = .idle ∧ s.loaded = false ∧
      ((r = .readFailure ∧ loadRom r s = s.failLoad .unreadable) ∨
       (∃ rom, r = .bytes rom ∧ Config.romMax < rom.length ∧ loadRom r s = s.failLoad .tooLarge) ∨
       (∃ rom, r = .bytes rom ∧ rom.length ≤ Config.romMax ∧
          loadRom r s = (s.setMem (s.mem.setBytes Config.programBase rom)).setRom rom.length))) := by
  by_cases h : s.run = .idle ∧ s.loaded = false
  · refine .inr ⟨h.1, h.2, ?_⟩
    cases r with
    | readFailure => exact .inl ⟨rfl, by simp [loadRom, h]⟩
    | bytes rom =>
      by_cases hl : rom.length > Config.romMax
      · exact .inr (.inl ⟨rom, rfl, hl, by simp only [loadRom, if_pos h, if_pos hl]⟩)
      · exact .inr (.inr ⟨rom, rfl, by omega, by simp only [loadRom, if_pos h, if_neg hl]⟩)
  · exact .inl ⟨by
      by_cases hr : s.run = .idle
      · exact .inr (by simpa [hr] using h)
      · exact .inl hr, by simp only [loadRom, if_neg h]⟩

/-- Start runs the block, or does nothing (R213, R231). -/
theorem start_cases (s : State) :
    (s.run = .idle ∧ s.loaded = true ∧ s.loadFailed = false ∧ start s = s.setRun .running) ∨
    (¬(s.run = .idle ∧ s.loaded = true ∧ s.loadFailed = false) ∧ start s = s) := by
  by_cases h : s.run = .idle ∧ s.loaded = true ∧ s.loadFailed = false
  · exact .inl ⟨h.1, h.2.1, h.2.2, if_pos h⟩
  · exact .inr ⟨h, if_neg h⟩

end Sys2Proof.Machine
end

