-- ==== Sys2Proof/Laws/Runs.lean ====
section
/-! SUPPORT. No agent's step reads or writes the schedule, and every scheduled turn completes: what the runs of `IsRun`
rest on (R212; assumption 2). -/

namespace Sys2Proof.Machine

/-- From `s` the step completes, and from `s` with any schedule it does the same and leaves that schedule. -/
def Unscheduled (f : State → Host.Outcome State Fault Refusal) (s : State) : Prop :=
  ∃ t : State, f s = .next t ∧ ∀ ts, f (s.setSchedule ts) = .next (t.setSchedule ts)

theorem Unscheduled.raise (i : Instr) (info : FaultInfo) (s : State) : Unscheduled (raise i info) s :=
  ⟨_, rfl, fun _ => rfl⟩

theorem Unscheduled.withRange (i : Instr) (access : Access) (base count : Nat) {s : State} (f : State → State)
    (h : ∀ ts, f (s.setSchedule ts) = (f s).setSchedule ts) :
    Unscheduled (fun u => withRange i access base count u (f u)) s := by
  unfold Unscheduled Machine.withRange
  cases firstBeyond base count with
  | some a => exact raise i (.memOutOfBounds a access) s
  | none => exact ⟨_, rfl, fun ts => congrArg _ (h ts)⟩

/-- Every instruction completes, and none reads or writes the schedule. -/
theorem exec_unscheduled (i : Instr) (s : State) : Unscheduled (exec i) s := by
  cases i
  case ret ign =>
    by_cases h : s.sp.val = 0
    · exact ⟨_, dif_pos h, fun _ => dif_pos h⟩
    · exact ⟨_, dif_neg h, fun _ => dif_neg h⟩
  case call nnn =>
    by_cases h : s.sp.val < 16
    · exact ⟨_, dif_pos h, fun _ => dif_pos h⟩
    · exact ⟨_, dif_neg h, fun _ => dif_neg h⟩
  case skp x =>
    unfold Unscheduled; simp only [exec, execSkp, State.setSchedule_reg]
    cases keyNumber (s.reg x) <;> exact ⟨_, rfl, fun _ => rfl⟩
  case sknp x =>
    unfold Unscheduled; simp only [exec, execSknp, State.setSchedule_reg]
    cases keyNumber (s.reg x) <;> exact ⟨_, rfl, fun _ => rfl⟩
  case drw x y n => exact .withRange _ _ s.base _ (fun u => u.draw x y n) fun _ => rfl
  case ldB x => exact .withRange _ _ s.base _ (fun u => (u.setMem (u.mem.setBytes u.base (bcd (u.reg x)))).advance) fun _ => rfl
  case stRegs x => exact .withRange _ _ s.base _ (fun u => (u.setMem (u.mem.setBytes u.base (u.regsUpTo x))).advance) fun _ => rfl
  case ldRegs x => exact .withRange _ _ s.base _ (fun u => (u.setRegs (u.regsFrom u.base x)).advance) fun _ => rfl
  all_goals exact ⟨_, rfl, fun _ => rfl⟩

/-- An instruction step completes, and does not read the schedule. -/
theorem instructionStep_unscheduled (s : State) : Unscheduled instructionStep s := by
  unfold Unscheduled
  rcases s.fetch_cases with ⟨-, h⟩ | ⟨-, h⟩
  · have h' : ∀ ts, (s.setSchedule ts).fetch = _ := fun _ => h
    simp only [instructionStep, h, h']
    rcases decodeWord_cases (wordOfBytes (s.peek s.pc.toNat) (s.peek (s.pc.toNat + 1))) with ⟨i, hd⟩ | hd
    · rw [hd]; exact exec_unscheduled i s
    · rw [hd]; exact ⟨_, rfl, fun _ => rfl⟩
  · have h' : ∀ ts, (s.setSchedule ts).fetch = _ := fun _ => h
    simp only [instructionStep, h, h']
    exact ⟨_, rfl, fun _ => rfl⟩

/-- Every turn completes, and none reads or writes the schedule. -/
theorem takeTurn_unscheduled (turn : Turn) (s : State) : Unscheduled (takeTurn turn) s := by
  cases turn with
  | engine =>
    by_cases hr : s.run = .running
    · obtain ⟨t, h, h'⟩ := instructionStep_unscheduled s
      exact ⟨t, (if_pos hr).trans h, fun ts => (if_pos hr).trans (h' ts)⟩
    · exact ⟨s, if_neg hr, fun _ => if_neg hr⟩
  | tick =>
    by_cases h : s.run.live = true
    · exact ⟨_, congrArg Host.Outcome.next (if_pos h), fun _ => congrArg Host.Outcome.next (if_pos h)⟩
    · exact ⟨s, congrArg Host.Outcome.next (if_neg h), fun _ => congrArg Host.Outcome.next (if_neg h)⟩
  | keyChange k b =>
    refine ⟨_, rfl, fun ts => congrArg Host.Outcome.next (?_ : _ = State.setSchedule _ ts)⟩
    unfold Machine.keyChange; simp only [State.setSchedule_run, State.setSchedule_keyDown]; split <;> rfl
  | loadRom r =>
    by_cases h : s.run = .idle ∧ s.loaded = false
    · cases r with
      | readFailure => exact ⟨_, congrArg Host.Outcome.next (if_pos h), fun _ => congrArg Host.Outcome.next (if_pos h)⟩
      | bytes rom =>
        by_cases hl : rom.length > Config.romMax
        · exact ⟨_, congrArg Host.Outcome.next ((if_pos h).trans (if_pos hl)),
            fun _ => congrArg Host.Outcome.next ((if_pos h).trans (if_pos hl))⟩
        · exact ⟨_, congrArg Host.Outcome.next ((if_pos h).trans (if_neg hl)),
            fun _ => congrArg Host.Outcome.next ((if_pos h).trans (if_neg hl))⟩
    · exact ⟨s, congrArg Host.Outcome.next (if_neg h), fun _ => congrArg Host.Outcome.next (if_neg h)⟩
  | start =>
    by_cases h : s.run = .idle ∧ s.loaded = true ∧ s.loadFailed = false
    · exact ⟨_, congrArg Host.Outcome.next (if_pos h), fun _ => congrArg Host.Outcome.next (if_pos h)⟩
    · exact ⟨s, congrArg Host.Outcome.next (if_neg h), fun _ => congrArg Host.Outcome.next (if_neg h)⟩
  | stop =>
    by_cases h : s.run.live = true
    · exact ⟨_, congrArg Host.Outcome.next (if_pos h), fun _ => congrArg Host.Outcome.next (if_pos h)⟩
    · exact ⟨s, congrArg Host.Outcome.next (if_neg h), fun _ => congrArg Host.Outcome.next (if_neg h)⟩

/-- A scheduled turn completes, whatever turns follow it, and is what the same turn is when none follow. -/
theorem step_scheduled (turn : Turn) (s : State) :
    ∃ t : State, t.schedule = [] ∧ ∀ ts, step (s.setSchedule (turn :: ts)) = .next (t.setSchedule ts) := by
  obtain ⟨t, -, h⟩ := takeTurn_unscheduled turn s
  exact ⟨t.setSchedule [], rfl, h⟩

end Sys2Proof.Machine
end

