-- ==== Sys2Proof/Tests/Slice0.lean ====
section
/-! SUPPORT. The model's own tests, each with the vector of 95_test_vectors.md (or the worked example of a rule) its
expected result comes from, and one witness for each hypothesis of a statement. -/

namespace Sys2Proof.Tests

set_option Elab.async false

open Sys2Proof Sys2Proof.Machine

/-! ## Helpers -/

/-- The reset state, started, with the word at 0x200. -/
def at200 (w : Nat) : State := State.reset.withFetchWord 16 w

/-- One register set. -/
def v (r : Nibble) (b : Byte) (s : State) : State := s.setReg r b

/-- One step, and a check of the next state. -/
def after (s : State) (p : State → Bool) : Bool :=
  match step s with
  | .next t => p t
  | .fault _ => false
  | .refused _ => false

/-- A step that takes the fault and changes nothing else. -/
def faultsWith (s : State) (info : FaultInfo) (w : Option Word) : Bool :=
  after s fun t => decide (t = s.faulted info w)

/-- The pixels of `ps` set, written (row, column), and no others. -/
def pixels (ps : List (Fin 32 × Fin 64)) : Framebuffer :=
  ps.foldl (fun fb p => fb.set p.1 p.2 true) Framebuffer.clear

/-! ## Well-formedness: each check refuses an ill-formed term, and accepts the canonical one -/

theorem test_wellFormed_cls : (Instr.cls 1).wellFormed = false ∧ (Instr.cls 0).wellFormed = true := by decide
theorem test_wellFormed_ret : (Instr.ret 5).wellFormed = false ∧ (Instr.ret 0).wellFormed = true := by decide
theorem test_wellFormed_seReg :
    (Instr.seReg 1 2 3).wellFormed = false ∧ (Instr.seReg 1 2 0).wellFormed = true := by decide
theorem test_wellFormed_sneReg :
    (Instr.sneReg 1 2 15).wellFormed = false ∧ (Instr.sneReg 1 2 0).wellFormed = true := by decide
theorem test_wellFormed_shr : (Instr.shr 0 10).wellFormed = false ∧ (Instr.shr 0 0).wellFormed = true := by decide
theorem test_wellFormed_shl : (Instr.shl 0 1).wellFormed = false ∧ (Instr.shl 15 0).wellFormed = true := by decide

/-! ## Decoding: words written out from the opcode map (R75) and the fields (R71), every constructor -/

theorem test_decode_class0 :
    decodeWord 0x00E0 = .instr (.cls 0) ∧ decodeWord 0x01E0 = .instr (.cls 1) ∧
    decodeWord 0x00EE = .instr (.ret 0) ∧ decodeWord 0x05EE = .instr (.ret 5) := by decide

theorem test_decode_addresses :
    decodeWord 0x1234 = .instr (.jp 0x234) ∧ decodeWord 0x2300 = .instr (.call 0x300) ∧
    decodeWord 0xA300 = .instr (.ldI 0x300) ∧ decodeWord 0xBFFF = .instr (.jpV0 0xFFF) := by decide

theorem test_decode_immediates :
    decodeWord 0x3F01 = .instr (.seImm 0xF 0x01) ∧ decodeWord 0x4012 = .instr (.sneImm 0 0x12) ∧
    decodeWord 0x6A42 = .instr (.ldImm 0xA 0x42) ∧ decodeWord 0x70FF = .instr (.addImm 0 0xFF) ∧
    decodeWord 0xC50F = .instr (.rnd 5 0x0F) := by decide

theorem test_decode_registers :
    decodeWord 0x5123 = .instr (.seReg 1 2 3) ∧ decodeWord 0x912F = .instr (.sneReg 1 2 15) ∧
    decodeWord 0xD125 = .instr (.drw 1 2 5) := by decide

theorem test_decode_class8 :
    decodeWord 0x8230 = .instr (.ldReg 2 3) ∧ decodeWord 0x8231 = .instr (.orReg 2 3) ∧
    decodeWord 0x8232 = .instr (.andReg 2 3) ∧ decodeWord 0x8233 = .instr (.xorReg 2 3) ∧
    decodeWord 0x8234 = .instr (.addReg 2 3) ∧ decodeWord 0x8235 = .instr (.subReg 2 3) ∧
    decodeWord 0x80A6 = .instr (.shr 0 10) ∧ decodeWord 0x8237 = .instr (.subnReg 2 3) ∧
    decodeWord 0x8F1E = .instr (.shl 15 1) := by decide

theorem test_decode_keys : decodeWord 0xE39E = .instr (.skp 3) ∧ decodeWord 0xE3A1 = .instr (.sknp 3) := by decide

theorem test_decode_classF :
    decodeWord 0xF207 = .instr (.ldVxDT 2) ∧ decodeWord 0xF30A = .instr (.ldVxK 3) ∧
    decodeWord 0xF015 = .instr (.ldDTVx 0) ∧ decodeWord 0xF118 = .instr (.ldSTVx 1) ∧
    decodeWord 0xF51E = .instr (.addI 5) ∧ decodeWord 0xFA29 = .instr (.ldF 10) ∧
    decodeWord 0xF033 = .instr (.ldB 0) ∧ decodeWord 0xFE55 = .instr (.stRegs 14) ∧
    decodeWord 0xF265 = .instr (.ldRegs 2) := by decide

/-- Vector E6. -/
theorem test_decode_unknown :
    decodeWord 0x8008 = .unknownOpcode 0x8008 ∧ decodeWord 0x800F = .unknownOpcode 0x800F ∧
    decodeWord 0xE09F = .unknownOpcode 0xE09F ∧ decodeWord 0xF0FF = .unknownOpcode 0xF0FF ∧
    decodeWord 0x0123 = .unknownOpcode 0x0123 ∧ decodeWord 0x0000 = .unknownOpcode 0x0000 := by decide

/-- Vector S1: the byte at the lower address is the high byte. -/
theorem test_decode_bigEndian : decode [0x12, 0x34, 0x56] = (.instr (.jp 0x234), [0x56]) := by decide

theorem test_decode_truncated : decode [0x12] = (.truncated [0x12], []) := by decide

/-- The host's table words: each row of the opcode map, its open bits zero, decodes to the row's instruction. -/
theorem test_decodeTableWord :
    (opcodeMap.all fun row => (decodeTableWord 16 row.bits.toNat).map Instr.mnemonic == some row.mnemonic) = true := by
  decide +kernel

/-- The very next step runs the placed word: no row of the map ends as a report, a refusal or a stop of the step. -/
theorem test_withFetchWord :
    (opcodeMap.all fun row => after (State.reset.withFetchWord 16 row.bits.toNat) fun t =>
      t.outputs.all fun e => match e with
        | .unknownOpcode _ _ => false
        | .loadFailed _ => false
        | .repaint _ => true
        | .faultReport f => decide (f.w = some row.bits)) = true := by decide +kernel

/-! ## Fetch (R80, R82) -/

/-- Vector E8: an odd `pc` fetches. -/
theorem test_fetch_odd :
    after ((State.reset.setPc 0x201).withFetchWord 16 0x610A) (fun t => t.reg 1 == 0x0A && t.pc == 0x203) = true := by
  decide +kernel

/-- Vector E9: the last word of memory executes. -/
theorem test_fetch_last :
    after ((State.reset.setPc 0xFFE).withFetchWord 16 0x6001) (fun t => t.reg 0 == 1 && t.pc == 0x1000) = true := by
  decide +kernel

/-- Vector E10. -/
theorem test_fetch_beyond :
    faultsWith ((at200 0).setPc 0x1000) (.memOutOfBounds 0x1000 .fetch) none = true := by decide +kernel

/-- Vector E11. -/
theorem test_fetch_half :
    faultsWith ((at200 0).setPc 0xFFF) (.memOutOfBounds 0x1000 .fetch) none = true := by decide +kernel

/-- Vector S14: an unknown opcode is reported, and nothing but `pc` changes. -/
theorem test_unknown :
    after (at200 0x0000) (fun t =>
      decide (t = { at200 0x0000 with pc := 0x202, outputs := [.unknownOpcode 0x200 0x0000] })) = true := by
  decide +kernel

/-- The numbers of R201's table. -/
theorem test_fault_codes :
    (FaultInfo.memOutOfBounds 4096 .read).code = 1 ∧ FaultInfo.stackOverflow.code = 2 ∧
    FaultInfo.stackUnderflow.code = 3 ∧ (FaultInfo.keyOutOfRange 16).code = 4 := by decide

/-! ## Display -/

/-- Vector D1. -/
theorem test_cls :
    after { (v 15 7 (at200 0x00E0)) with fb := pixels [(3, 5), (31, 63)] } (fun t =>
      decide (t.fb = pixels []) && decide (t.outputs = [.repaint (pixels [])]) && t.pc == 0x202 && t.reg VF == 7)
      = true := by decide +kernel

/-- The first two rows of glyph 0, `F0 90`, from row 31, column 62: wrapped at both edges as in vector D4. -/
theorem test_draw_wraps :
    after (v 0 0x3E (v 1 0x1F (at200 0xD012))) (fun t =>
      decide (t.fb = pixels [(31, 62), (31, 63), (31, 0), (31, 1), (0, 62), (0, 1)]) && t.reg VF == 0 &&
      decide (t.outputs = [.repaint t.fb]) && t.pc == 0x202) = true := by decide +kernel

/-- Vector D6: a set pixel cleared is a collision; vector D11's operand rule with `x = 15`. -/
theorem test_draw_collides :
    after { (v 15 0 (at200 0xDF01)) with
        fb := pixels [(0, 0)], i := 0x300, mem := (at200 0xDF01).mem.set 0x300 0x80 }
      (fun t => decide (t.fb = pixels []) && t.reg VF == 1) = true := by decide +kernel

/-! ## Control -/

/-- Vector C1. -/
theorem test_ret :
    after { (at200 0x00EE) with sp := 1, stack := (at200 0).stack.set 0 0x202 } (fun t =>
      t.sp == 0 && t.pc == 0x202 && t.stack[0] == 0x202) = true := by decide +kernel

/-- Vector C2. -/
theorem test_ret_underflow : faultsWith (at200 0x00EE) .stackUnderflow (some 0x00EE) = true := by decide +kernel

/-- Vector C3. -/
theorem test_jp : after (at200 0x1234) (fun t => t.pc == 0x234) = true := by decide +kernel

/-- Vector C5. -/
theorem test_call :
    after (at200 0x2300) (fun t => t.stack[0] == 0x202 && t.sp == 1 && t.pc == 0x300) = true := by decide +kernel

/-- Vector C6. -/
theorem test_call_overflow :
    faultsWith { (at200 0x2300) with sp := 16 } .stackOverflow (some 0x2300) = true := by decide +kernel

/-- Vector S13. -/
theorem test_seImm :
    (after (v 0 0x12 (at200 0x3012)) (fun t => t.pc == 0x204) && after (v 0 0x12 (at200 0x3013)) (fun t => t.pc == 0x202))
      = true := by decide +kernel

/-- Vector C13. -/
theorem test_sneImm :
    (after (v 0 0x12 (at200 0x4012)) (fun t => t.pc == 0x202) && after (v 0 0x12 (at200 0x4013)) (fun t => t.pc == 0x204))
      = true := by decide +kernel

/-- Vectors E4 and C14. -/
theorem test_seReg :
    (after (v 1 7 (v 2 7 (at200 0x5123))) (fun t => t.pc == 0x204) && after (v 3 9 (at200 0x5330)) (fun t => t.pc == 0x204))
      = true := by decide +kernel

/-- Vectors E5 and C15. -/
theorem test_sneReg :
    (after (v 1 7 (v 2 8 (at200 0x912F))) (fun t => t.pc == 0x204) && after (v 3 9 (at200 0x9330)) (fun t => t.pc == 0x202))
      = true := by decide +kernel

/-- Vectors C11 and C12: the sum is not reduced, and the offset is V0. -/
theorem test_jpV0 :
    (after (v 0 0xFF (at200 0xBFFF)) (fun t => t.pc == 0x10FE) &&
      after (v 0 1 (v 5 0xFF (at200 0xB500))) (fun t => t.pc == 0x501)) = true := by decide +kernel

/-! ## ALU -/

/-- Vectors A1 and A2. -/
theorem test_ldImm :
    (after (at200 0x6A42) (fun t => t.reg 0xA == 0x42 && t.pc == 0x202) &&
      after (v 15 3 (at200 0x6F99)) (fun t => t.reg VF == 0x99)) = true := by decide +kernel

/-- Vector A3: the sum wraps and writes no flag. -/
theorem test_addImm :
    after (v 0 0xFF (v 15 7 (at200 0x7001))) (fun t => t.reg 0 == 0 && t.reg VF == 7) = true := by decide +kernel

/-- Vector A5. -/
theorem test_ldReg : after (v 3 0x99 (at200 0x8230)) (fun t => t.reg 2 == 0x99) = true := by decide +kernel

/-- Vector A6. -/
theorem test_orReg :
    after (v 0 0xF0 (v 1 0x0F (v 15 0xAA (at200 0x8011)))) (fun t => t.reg 0 == 0xFF && t.reg VF == 0xAA) = true := by
  decide +kernel

/-- Vector A7. -/
theorem test_andReg :
    after (v 0 0xF0 (v 1 0x3C (v 15 0xAA (at200 0x8012)))) (fun t => t.reg 0 == 0x30 && t.reg VF == 0xAA) = true := by
  decide +kernel

/-- Vector A8. -/
theorem test_xorReg :
    after (v 0 0xFF (v 1 0x0F (v 15 0xAA (at200 0x8013)))) (fun t => t.reg 0 == 0xF0 && t.reg VF == 0xAA) = true := by
  decide +kernel

/-- Vectors S2 and A12. -/
theorem test_addReg :
    (after (v 0 0xFE (v 1 5 (at200 0x8014))) (fun t => t.reg 0 == 3 && t.reg VF == 1) &&
      after (v 0 1 (v 15 0xFF (at200 0x80F4))) (fun t => t.reg 0 == 0 && t.reg VF == 1)) = true := by decide +kernel

/-- Vector A11: where the destination is VF the sum is the last write. -/
theorem test_addReg_flag :
    after (v 15 0xFF (v 1 2 (at200 0x8F14))) (fun t => t.reg VF == 1) = true := by decide +kernel

/-- Vectors S4 and A13: equal operands do not borrow. -/
theorem test_subReg :
    (after (v 0 5 (v 1 5 (at200 0x8015))) (fun t => t.reg 0 == 0 && t.reg VF == 1) &&
      after (v 0 3 (v 1 5 (at200 0x8015))) (fun t => t.reg 0 == 0xFE && t.reg VF == 0)) = true := by decide +kernel

/-- Vectors A14, A15 and A16: the second statement reads the new flag. -/
theorem test_subReg_flag :
    (after (v 15 5 (v 1 3 (at200 0x8F15))) (fun t => t.reg VF == 0xFE) &&
      after (v 0 5 (v 15 3 (at200 0x80F5))) (fun t => t.reg VF == 1 && t.reg 0 == 4) &&
      after (v 15 9 (at200 0x8FF5)) (fun t => t.reg VF == 0)) = true := by decide +kernel

/-- Vectors S5 and A19: `y` is ignored. -/
theorem test_shr :
    (after (v 0 0xFF (at200 0x8006)) (fun t => t.reg 0 == 0x7F && t.reg VF == 1) &&
      after (v 0 0 (v 1 0xFF (at200 0x8016))) (fun t => t.reg 0 == 0 && t.reg VF == 0)) = true := by decide +kernel

/-- Vector A20. -/
theorem test_shr_flag : after (v 15 0xFF (at200 0x8F06)) (fun t => t.reg VF == 0) = true := by decide +kernel

/-- Vectors A21 and A22. -/
theorem test_subnReg :
    (after (v 0 3 (v 1 5 (at200 0x8017))) (fun t => t.reg 0 == 2 && t.reg VF == 1) &&
      after (v 0 5 (v 1 3 (at200 0x8017))) (fun t => t.reg 0 == 0xFE && t.reg VF == 0)) = true := by decide +kernel

/-- Vectors A24 and A25, and R130's last corner case. -/
theorem test_subnReg_flag :
    (after (v 15 3 (v 1 5 (at200 0x8F17))) (fun t => t.reg VF == 4) &&
      after (v 0 3 (v 15 5 (at200 0x80F7))) (fun t => t.reg VF == 1 && t.reg 0 == 0xFE) &&
      after (v 15 9 (at200 0x8FF7)) (fun t => t.reg VF == 0)) = true := by decide +kernel

/-- Vectors A26 and A27. -/
theorem test_shl :
    (after (v 0 0x81 (at200 0x800E)) (fun t => t.reg 0 == 2 && t.reg VF == 1) &&
      after (v 0 0x40 (at200 0x800E)) (fun t => t.reg 0 == 0x80 && t.reg VF == 0)) = true := by decide +kernel

/-- Vectors A29 and A30. -/
theorem test_shl_flag :
    (after (v 15 0x80 (at200 0x8F0E)) (fun t => t.reg VF == 2) &&
      after (v 15 0x7F (at200 0x8F0E)) (fun t => t.reg VF == 0)) = true := by decide +kernel

/-- Vectors A31 and A32. -/
theorem test_rnd :
    (after { (at200 0xC00F) with randomIn := [0xA7, 0x11] } (fun t => t.reg 0 == 7 && decide (t.randomIn = [0x11])) &&
      after { (v 0 9 (at200 0xC000)) with randomIn := [0xA7] } (fun t => t.reg 0 == 0)) = true := by decide +kernel

/-! ## The address register and memory -/

/-- Vector M1. -/
theorem test_ldI : after (at200 0xA300) (fun t => t.i == 0x300 && t.pc == 0x202) = true := by decide +kernel

/-- Vectors M3 and M4. -/
theorem test_addI :
    (after (v 0 1 ((at200 0xF01E).setI 0xFFF)) (fun t => t.i == 0x1000 && t.reg VF == 0) &&
      after (v 0 2 ((at200 0xF01E).setI 0xFFFF)) (fun t => t.i == 1)) = true := by decide +kernel

/-- Vectors M5 and M7: the digit is not masked. -/
theorem test_ldF :
    (after (v 0 0x0A (at200 0xF029)) (fun t => t.i == 0x32) && after (v 0 0xFF (at200 0xF029)) (fun t => t.i == 0x4FB))
      = true := by decide +kernel

/-- Vector S7. -/
theorem test_ldB :
    after (v 0 0x9D ((at200 0xF033).setI 0x300)) (fun t =>
      decide (t.peekBytes 0x300 3 = [1, 5, 7]) && t.i == 0x300 && t.pc == 0x202) = true := by decide +kernel

/-- Vector M11. -/
theorem test_ldB_beyond :
    faultsWith (v 0 0x9D ((at200 0xF033).setI 0xFFE)) (.memOutOfBounds 0x1000 .write) (some 0xF033) = true := by
  decide +kernel

/-- Vectors M12 and M18: the font is ordinary memory. -/
theorem test_stRegs :
    (after (v 0 1 (v 1 2 ((at200 0xF155).setI 0x300))) (fun t =>
        decide (t.peekBytes 0x300 3 = [1, 2, 0]) && t.i == 0x300) &&
      after (v 0 0xAB (at200 0xF055)) (fun t => decide (t.peekBytes 0 2 = [0xAB, 0x90]))) = true := by decide +kernel

/-- Vector M14. -/
theorem test_stRegs_beyond :
    faultsWith ((at200 0xFF55).setI 0xFF1) (.memOutOfBounds 0x1000 .write) (some 0xFF55) = true := by decide +kernel

/-- The worked example of R145, on the font's bytes `F0 90 90`. -/
theorem test_ldRegs :
    after (v 3 7 (at200 0xF265)) (fun t =>
      t.reg 0 == 0xF0 && t.reg 1 == 0x90 && t.reg 2 == 0x90 && t.reg 3 == 7 && t.i == 0) = true := by decide +kernel

/-- Vector M17. -/
theorem test_ldRegs_beyond :
    faultsWith ((at200 0xF065).setI 0x1000) (.memOutOfBounds 0x1000 .read) (some 0xF065) = true := by decide +kernel

/-! ## Keys and timers -/

/-- Vectors K1 and K2. -/
theorem test_skp :
    (after (v 3 5 ((at200 0xE39E).setKey 5 true)) (fun t => t.pc == 0x204) &&
      after (v 3 5 (at200 0xE39E)) (fun t => t.pc == 0x202)) = true := by decide +kernel

/-- Vector K4. -/
theorem test_skp_range : faultsWith (v 3 0x10 (at200 0xE39E)) (.keyOutOfRange 0x10) (some 0xE39E) = true := by
  decide +kernel

/-- Vector K3, and the key held. -/
theorem test_sknp :
    (after (v 3 5 (at200 0xE3A1)) (fun t => t.pc == 0x204) &&
      after (v 3 5 ((at200 0xE3A1).setKey 5 true)) (fun t => t.pc == 0x202)) = true := by decide +kernel

/-- Vector K5. -/
theorem test_sknp_range : faultsWith (v 3 0xFF (at200 0xE3A1)) (.keyOutOfRange 0xFF) (some 0xE3A1) = true := by
  decide +kernel

/-- Vector K6. -/
theorem test_ldVxDT : after ((at200 0xF207).setDt 0x3C) (fun t => t.reg 2 == 0x3C && t.dt == 0x3C) = true := by
  decide +kernel

/-- Vector K7. -/
theorem test_ldDTVx : after (v 0 0x3C (at200 0xF015)) (fun t => t.dt == 0x3C && t.st == 0) = true := by decide +kernel

/-- Vectors K8 and K9. -/
theorem test_ldSTVx :
    (after (v 1 5 (at200 0xF118)) (fun t => t.st == 5 && t.soundActive) &&
      after ((at200 0xF118).setSt 5) (fun t => t.st == 0 && !t.soundActive)) = true := by decide +kernel

/-- Vector K10. -/
theorem test_ldVxK :
    after (v 3 9 ((at200 0xF30A).setKey 5 true)) (fun t => decide (t.run = .waitKey 3) && t.pc == 0x200 && t.reg 3 == 9)
      = true := by decide +kernel

/-- A block that waits for a key at 0x200, with the agents' steps to come. -/
def waiting (x : Nibble) (ts : List Turn) : State := { (at200 0xF30A) with run := .waitKey x, schedule := ts }

/-- Vectors K11 and K14. -/
theorem test_keyPress :
    (after (waiting 3 [.keyChange 0xB true]) (fun t => t.reg 3 == 0xB && t.pc == 0x202 && decide (t.run = .running)) &&
      after (waiting 15 [.keyChange 7 true]) (fun t => t.reg VF == 7 && t.pc == 0x202)) = true := by decide +kernel

/-- Vector K12: a key already down is no edge. -/
theorem test_keyHeld :
    after ((waiting 3 [.keyChange 0xB true]).setKey 0xB true) (fun t =>
      decide (t = (waiting 3 []).setKey 0xB true)) = true := by decide +kernel

/-- Vector T1. -/
theorem test_tick :
    after { (at200 0) with dt := 5, st := 3, schedule := [.tick] } (fun t => t.dt == 4 && t.st == 2) = true := by
  decide +kernel

/-- Vector T4: no tick in `Idle`. -/
theorem test_tick_idle :
    after { State.reset with dt := 5, schedule := [.tick] } (fun t => t.dt == 5) = true := by decide +kernel

/-- Vector K16. -/
theorem test_stop :
    after (waiting 3 [.stop]) (fun t => decide (t.run = .stopped) && t.pc == 0x200 && t.reg 3 == 0) = true := by
  decide +kernel

/-- Vectors R4 and R7. -/
theorem test_loadRom :
    (after { State.reset with schedule := [.loadRom .readFailure] } (fun t =>
        decide (t = State.reset.failLoad .unreadable)) &&
      after { State.reset with schedule := [.loadRom (.bytes [0x61])] } (fun t =>
        t.peek 0x200 == 0x61 && t.peek 0x201 == 0 && t.romSize == 1 && t.loaded)) = true := by decide +kernel

/-- Vector R3. -/
theorem test_loadRom_tooLarge :
    loadRom (.bytes (List.replicate 3585 1)) State.reset = State.reset.failLoad .tooLarge := by decide +kernel

/-- Vector R4, and the words of R231 where a good load follows the failed one: the engine is never started. -/
theorem test_start_afterFailure :
    start (loadRom .readFailure State.reset) = loadRom .readFailure State.reset ∧
    (start (loadRom (.bytes [0x61]) (loadRom .readFailure State.reset))).run = .idle ∧
    (start (loadRom (.bytes [0x61]) State.reset)).run = .running := by decide +kernel

/-- Vector R1, and FONT_TABLE's place: the last glyph is at 0x04B. -/
theorem test_reset_font :
    State.reset.peekBytes 0x4B 6 = [0xF0, 0x80, 0xF0, 0x80, 0x80, 0x00] ∧ State.reset.peekBytes 0 2 = [0xF0, 0x90] := by
  decide +kernel

/-! ## Memory -/

theorem test_memory_canonical :
    Memory.wf (Memory.set (Memory.set [] 0x300 7) 0x201 9) = true ∧
    Memory.set (Memory.set [] 0x300 7) 0x300 0 = [] ∧ Memory.set [] 0x000 0xF0 = [] ∧
    Memory.wf [(0x300, 7), (0x201, 9)] = false ∧ Memory.wf [(0x300, 0)] = false ∧
    Memory.wf [(0x1000, 1)] = false := by decide +kernel

/-! ## Witnesses: a state and operands for each hypothesis of a statement -/

/-- `StepFetchesDecodesAndExecutes`, at the boundary value of each clause. -/
theorem witness_step_beyond : ∃ s : State, s.run = .running ∧ s.schedule = [] ∧ 4096 ≤ s.pc.toNat :=
  ⟨(at200 0).setPc 0x1000, rfl, rfl, by decide⟩
theorem witness_step_half : ∃ s : State, s.run = .running ∧ s.schedule = .engine :: [.tick] ∧ s.pc.toNat + 1 = 4096 :=
  ⟨((at200 0).setPc 0xFFF).setSchedule [.engine, .tick], rfl, rfl, by decide⟩
theorem witness_step_instr : ∃ (s : State) (i : Instr), s.run = .running ∧ s.schedule = [] ∧ s.pc.toNat + 1 = 4095 ∧
    (decode [s.peek s.pc.toNat, s.peek (s.pc.toNat + 1)]).1 = .instr i :=
  ⟨(State.reset.setPc 0xFFE).withFetchWord 16 0x6001, .ldImm 0 1, by decide +kernel⟩
theorem witness_step_unknown : ∃ s : State, s.run = .running ∧ s.schedule = [] ∧ s.pc.toNat + 1 < 4096 ∧
    ∃ w, decodeWord (wordOfBytes (s.peek s.pc.toNat) (s.peek (s.pc.toNat + 1))) = .unknownOpcode w :=
  ⟨at200 0, rfl, rfl, by decide +kernel, 0, by decide +kernel⟩

/-- A fault record of this block. -/
def record : FaultRecord := ⟨.stackUnderflow, 0x200, some 0x00EE⟩

/-- `EngineStepsOnlyWhileRunning` and `FinalStatesStayFinal`: one state for each run state and schedule. -/
theorem witness_engine_idle : State.reset.run = .idle ∧ State.reset.schedule = [] := by decide
theorem witness_engine_waiting : (waiting 3 []).run = .waitKey 3 ∧ (waiting 3 []).schedule = [] := by decide +kernel
theorem witness_engine_turn : (waiting 3 [.engine]).run ≠ .running ∧ (waiting 3 [.engine]).schedule = [.engine] := by
  decide +kernel
theorem witness_final_stopped : ∃ s : State, s.run = .stopped ∧ s.schedule = [] := ⟨State.reset.setRun .stopped, rfl, rfl⟩
theorem witness_final_faulted : ∃ s : State, s.run = .faulted record ∧ s.schedule = [] :=
  ⟨State.reset.setRun (.faulted record), rfl, rfl⟩
theorem witness_final_turn : ∃ s : State, (s.run = .stopped ∨ ∃ f, s.run = .faulted f) ∧
    s.schedule = [.keyChange 3 true] :=
  ⟨(State.reset.setRun (.faulted record)).setSchedule [.keyChange 3 true], .inr ⟨record, rfl⟩, rfl⟩

/-- `TickCountsBothTimersDown`: running with the timers at 1 and 0, waiting, and idle. -/
theorem witness_tick_running : ∃ s : State, s.schedule = [.tick] ∧ s.run = .running ∧ s.dt = 1 ∧ s.st = 0 :=
  ⟨((at200 0).setDt 1).setSchedule [.tick], by decide +kernel⟩
theorem witness_tick_waiting : (waiting 3 [.tick]).schedule = [.tick] ∧ (waiting 3 [.tick]).run = .waitKey 3 := by
  decide +kernel
theorem witness_tick_idle : ∃ s : State, s.schedule = [.tick] ∧ s.run = .idle :=
  ⟨State.reset.setSchedule [.tick], rfl, rfl⟩

/-- `KeyPressCompletesAWait` and `OnlyAKeyPressOrStopEndsAWait`: an edge, a held key, a release, a tick, a stop. -/
theorem witness_key_edge : (waiting 3 [.keyChange 15 true]).run = .waitKey 3 ∧
    (waiting 3 [.keyChange 15 true]).keyDown 15 = false := by decide +kernel
theorem witness_key_held : ∃ s : State, s.run = .waitKey 3 ∧ s.schedule = [.keyChange 0 true] ∧ s.keyDown 0 = true :=
  ⟨(waiting 3 [.keyChange 0 true]).setKey 0 true, by decide +kernel⟩
theorem witness_wait_tick : (waiting 3 [.tick]).run = .waitKey 3 ∧ (waiting 3 [.tick]).schedule = .tick :: [] := by
  decide +kernel
theorem witness_wait_stop : (waiting 15 [.stop]).run = .waitKey 15 ∧ (waiting 15 [.stop]).schedule = .stop :: [] := by
  decide +kernel

/-- `LoadRomCopiesTheProgram`: the largest ROM that fits and the smallest that does not, a failure, a refusal. -/
theorem witness_load_fits : ∃ s : State, s.run = .idle ∧ s.loaded = false ∧ s.mem.wf = true ∧
    s.schedule = [.loadRom (.bytes (List.replicate 3584 1))] ∧ (List.replicate 3584 (1 : Byte)).length ≤ 3584 :=
  ⟨State.reset.setSchedule [.loadRom (.bytes (List.replicate 3584 1))], rfl, rfl, rfl, rfl, Nat.le_of_eq List.length_replicate⟩
theorem witness_load_large : State.reset.run = .idle ∧ State.reset.loaded = false ∧
    3584 < (List.replicate 3585 (1 : Byte)).length := ⟨rfl, rfl, Nat.le_of_eq List.length_replicate.symm⟩
theorem witness_load_refused : ∃ s : State, s.loaded = true ∧ s.schedule = [.loadRom .readFailure] :=
  ⟨(State.reset.setRom 0).setSchedule [.loadRom .readFailure], rfl, rfl⟩

/-- `AFailedLoadNeverStarts`: each kind of failure, with a good load and a start to follow. -/
theorem witness_failure_read : ∃ s : State, s.schedule = [.loadRom .readFailure, .loadRom (.bytes [0x61]), .start] ∧
    s.run = .idle ∧ s.loaded = false :=
  ⟨State.reset.setSchedule [.loadRom .readFailure, .loadRom (.bytes [0x61]), .start], rfl, rfl, rfl⟩
theorem witness_failure_large : ∃ (s : State) (rom : List Byte), s.schedule = [.loadRom (.bytes rom), .start] ∧
    s.run = .idle ∧ s.loaded = false ∧ 3584 < rom.length :=
  ⟨State.reset.setSchedule [.loadRom (.bytes (List.replicate 3585 1)), .start], List.replicate 3585 1, rfl, rfl, rfl,
    Nat.le_of_eq List.length_replicate.symm⟩

/-- `StartAndStopSetTheRunState`. -/
theorem witness_start : ∃ s : State, s.schedule = [.start] ∧ s.run = .idle ∧ s.loaded = true ∧ s.loadFailed = false :=
  ⟨(State.reset.setRom 0).setSchedule [.start], rfl, rfl, rfl, rfl⟩
theorem witness_start_refused : ∃ s : State, s.schedule = [.start] ∧ s.loaded = false :=
  ⟨State.reset.setSchedule [.start], rfl, rfl⟩
theorem witness_start_afterFailure : ∃ s : State, s.schedule = [.start] ∧ s.run = .idle ∧ s.loaded = true ∧
    s.loadFailed = true :=
  ⟨((State.reset.failLoad .tooLarge).setRom 0).setSchedule [.start], rfl, rfl, rfl, rfl⟩
theorem witness_stop : (waiting 3 [.stop]).schedule = [.stop] ∧ (waiting 3 [.stop]).run = .waitKey 3 := by decide +kernel
theorem witness_stop_idle : ∃ s : State, s.schedule = [.stop] ∧ s.run = .idle :=
  ⟨State.reset.setSchedule [.stop], rfl, rfl⟩

/-- `ConstructionWritesTheFontBeforeTheRom` and `BootRunsTheRomFrom0x200`: a font, the last font address, the shortest and
the longest ROM. -/
theorem witness_font : (List.replicate 80 (0xAA : Byte)).length = 80 ∧ 79 < 80 := by simp
theorem witness_boot : 2 ≤ [(0x12 : Byte), 0x00].length ∧ 2 ≤ (List.replicate 3584 (1 : Byte)).length ∧
    (List.replicate 3584 (1 : Byte)).length ≤ 3584 :=
  ⟨by decide, Nat.le_trans (by decide) (Nat.le_of_eq List.length_replicate.symm), Nat.le_of_eq List.length_replicate⟩

/-- `EveryStepKeepsTheInvariant`: a running state with the invariant, whose step answers a next state. -/
theorem witness_invariant : Inv (at200 0x6A42) ∧ ∃ t, step (at200 0x6A42) = .next t :=
  ⟨{ memory := by decide +kernel
     pcBound := by decide +kernel
     frameBound := by decide +kernel
     faultedIff := fun f => show RunState.running = .faulted f ↔ (none : Option FaultRecord) = some f by simp
     recordSound := fun f h => nomatch (show (none : Option FaultRecord) = some f from h)
     oneReport := fun f => show List.count (Output.faultReport f) [] = if (none : Option FaultRecord) = some f then 1
       else 0 by simp
     waitPc := fun x h => nomatch (show RunState.running = .waitKey x from h)
     romBound := by decide +kernel
     beforeLoad := fun h => nomatch (show true = false from h)
     afterFailure := fun h => nomatch (show false = true from h) }, _, rfl⟩

/-- `DelayTimerReadsWhatTheTicksLeft`, `SelfJumpLoopsWithNoChange`. -/
theorem witness_running : (at200 0xF015).run = .running := rfl
theorem witness_selfJump : AtSelfJump (at200 0x1200) ∧ (at200 0x1200).schedule = [] :=
  ⟨⟨rfl, by decide +kernel, 0x200, by decide +kernel, by decide +kernel⟩, rfl⟩

/-- `StoredWordsAreFetched`: the highest range each store may write, and a store to the very next word. -/
theorem witness_store_top : ∃ s : State, s.mem.wf = true ∧ InRange s.i.toNat ((15 : Nibble).toNat + 1) :=
  ⟨State.reset.setI 0xFF0, rfl, inRange_iff.2 (by decide +kernel)⟩
theorem witness_bcd_top : ∃ s : State, s.mem.wf = true ∧ InRange s.i.toNat 3 :=
  ⟨State.reset.setI 0xFFD, rfl, inRange_iff.2 (by decide +kernel)⟩
theorem witness_stored_next : ∃ s t : State, s.mem.wf = true ∧ InRange s.i.toNat ((1 : Nibble).toNat + 1) ∧
    exec (.stRegs 1) s = .next t ∧ t.pc.toNat = s.i.toNat + (0 : Nibble).toNat :=
  ⟨(at200 0xF155).setI 0x202, _, by decide +kernel, inRange_iff.2 (by decide +kernel), rfl, by decide +kernel⟩
theorem witness_stored_bcd : ∃ s t u : State, s.mem.wf = true ∧ InRange s.i.toNat 3 ∧ exec (.ldB 0) s = .next t ∧
    t.pc.toNat = s.i.toNat ∧ exec (.ldB 0) (s.setI 0x201) = .next u ∧ u.pc.toNat = (s.setI 0x201).i.toNat + 1 :=
  ⟨(at200 0xF033).setI 0x202, _, _, by decide +kernel, inRange_iff.2 (by decide +kernel), rfl,
    by decide +kernel, rfl, by decide +kernel⟩

/-- `DrawXorsTheSprite`, `DrawTwiceRestoresEveryPixel`: the lowest address that does not exist, the last sprite that fits,
no rows with I out of range, a clear target area. -/
theorem witness_draw_beyond : LowestBeyond 0xFFE (3 : Nibble).toNat 0x1000 :=
  ⟨2, by decide, rfl, by decide, by decide⟩
theorem witness_draw_top : InRange 0xFF1 (15 : Nibble).toNat ∧ InRange 0x1000 (0 : Nibble).toNat :=
  ⟨inRange_iff.2 (by decide), inRange_iff.2 (by decide)⟩
theorem witness_draw_clear : InRange State.reset.i.toNat (5 : Nibble).toNat ∧ (∀ r c, State.reset.fb.get r c = false) ∧
    ∃ t, exec (.drw 0 0 5) State.reset = .next t ∧ t.reg 0 = State.reset.reg 0 :=
  ⟨inRange_iff.2 (by decide +kernel), fun r c => Framebuffer.get_clear r c, _, rfl, by decide +kernel⟩

/-- `ReturnPopsTheStack`, `CallPushesTheReturnAddress`, `CallThenReturnResumes`: no frame, one, sixteen; sixteen used,
one left. -/
theorem witness_ret : (0 : Fin 17).val = 0 ∧ (1 : Fin 17).val = (0 : Fin 16).val + 1 ∧
    (16 : Fin 17).val = (15 : Fin 16).val + 1 := by decide
theorem witness_call : ∃ s : State, s.sp = 16 := ⟨State.reset.setFrames State.reset.stack 16, rfl⟩
theorem witness_call_last : ∃ s : State, s.sp.val = (15 : Fin 16).val ∧ s.sp.val < 16 :=
  ⟨State.reset.setFrames State.reset.stack 15, rfl, by decide⟩
theorem witness_callRet : ∃ s t : State, s.sp.val < 16 ∧ exec (.call 0x300) s = .next t ∧
    ∃ u : State, u.sp = t.sp ∧ ∀ k : Fin 16, k.val = s.sp.val → u.stack[k] = t.stack[k] :=
  ⟨State.reset, _, by decide, rfl, _, rfl, fun _ _ => rfl⟩

/-- `StoreBcdWritesThreeDigits`, `StoreRegistersWritesTheRange`, `LoadRegistersReadsTheRange`,
`StoreThenLoadRegistersRestores`: one byte too far, and I itself out of range. -/
theorem witness_bcd_beyond : LowestBeyond 0xFFE 3 0x1000 ∧ LowestBeyond 0xFFFF 3 0xFFFF :=
  ⟨⟨2, by decide, rfl, by decide, by decide⟩, ⟨0, by decide, rfl, by decide, by decide⟩⟩
theorem witness_regs_beyond : LowestBeyond 0xFF1 ((15 : Nibble).toNat + 1) 0x1000 ∧
    LowestBeyond 0x1000 ((0 : Nibble).toNat + 1) 0x1000 :=
  ⟨⟨15, by decide, rfl, by decide, by decide⟩, ⟨0, by decide, rfl, by decide, by decide⟩⟩
theorem witness_restore : ∃ s t : State, InRange s.i.toNat ((15 : Nibble).toNat + 1) ∧ s.mem.wf = true ∧
    exec (.stRegs 15) s = .next t ∧ ∃ u : State, u.i = t.i ∧ u.mem = t.mem ∧ u.v ≠ t.v :=
  ⟨(v 3 1 State.reset).setI 0x300, _, inRange_iff.2 (by decide +kernel), rfl, rfl,
    { State.reset with i := 0x300, mem := [(0x303, 1)] }, by decide +kernel⟩

/-- `KeySkipsPollTheKey`: the first register value that names no key, and the last that names one. -/
theorem witness_keys : 16 ≤ ((v 3 16 State.reset).reg 3).toNat ∧
    ((v 3 15 State.reset).reg 3).toNat = (15 : Nibble).toNat := by decide

/-- `FaultsArePrecise`, `OnlyClearAndDrawRepaint`, `IgnoredFieldsHaveNoEffect`: a faulting form of every kind. -/
theorem witness_faultIn :
    (Instr.ret 5).faultIn State.reset = some .stackUnderflow ∧
    (Instr.call 0).faultIn (State.reset.setFrames State.reset.stack 16) = some .stackOverflow ∧
    (Instr.drw 0 0 3).faultIn (State.reset.setI 0xFFE) = some (.memOutOfBounds 0x1000 .read) ∧
    (Instr.ldB 0).faultIn (State.reset.setI 0xFFE) = some (.memOutOfBounds 0x1000 .write) ∧
    (Instr.skp 3).faultIn (v 3 16 State.reset) = some (.keyOutOfRange 16) := by decide
theorem witness_fetchFault : ∃ s : State, s.run = .running ∧ s.schedule = [] ∧ 4096 ≤ s.pc.toNat + 1 :=
  ⟨(at200 0).setPc 0xFFF, rfl, rfl, by decide⟩

/-- `EveryInstructionKeepsWhatItsRowDoesNotWrite`, `NoInstructionReadsTheSoundTimer`, and the clauses without a fault. -/
theorem witness_noFault :
    State.reset.mem.wf = true ∧ (Instr.stRegs 15).faultIn State.reset = none ∧ (Instr.cls 3).faultIn State.reset = none ∧
    (Instr.drw 1 2 15).faultIn State.reset = none ∧ (Instr.ldSTVx 4).faultIn State.reset = none ∧
    (Instr.shr 0 10).faultIn State.reset = none := by decide

/-- `FairRunsMakeProgress`: a fair run at a self-jump, the engine and the timer driver in turn, with DT at 1 before its
first tick; and a fair run that waits for a key, ticks alone. -/
theorem witness_fairRun : ∃ state turn, FairRun state turn ∧ (∀ m, 0 ≤ m → turn m ≠ .stop) ∧ AtSelfJump (state 0) ∧
    (state 0).run = .running ∧ (state 1).dt = 1 ∧ (state 2).dt = 0 := by
  refine ⟨fun n => if n < 2 then (at200 0x1200).setDt 1 else at200 0x1200,
    fun n => if n % 2 = 0 then .engine else .tick, ⟨fun n => ?_, fun n _ => ⟨2 * n, by omega, if_pos (by omega)⟩,
      fun n _ => ⟨2 * n + 1, by omega, if_neg (by omega)⟩⟩, fun m _ => ?_,
    ⟨rfl, by decide +kernel, 0x200, by decide +kernel, by decide +kernel⟩, rfl, rfl, rfl⟩
  · match n with
    | 0 => rfl
    | 1 => rfl
    | n + 2 =>
      dsimp only
      rw [if_neg (show ¬n + 2 < 2 by omega), if_neg (show ¬n + 2 + 1 < 2 by omega)]
      split <;> rfl
  · dsimp only
    split <;> exact Turn.noConfusion
theorem witness_fairWait : ∃ state turn, FairRun state turn ∧ (∀ m, 0 ≤ m → turn m ≠ .stop) ∧
    (state 0).run = .waitKey 3 ∧ ∀ m k, 0 ≤ m → turn m = .keyChange k true → (state m).keyDown k = true :=
  ⟨fun _ => waiting 3 [], fun _ => .tick,
    ⟨fun n => by rfl, fun n h => (nomatch h n (Nat.le_refl n)), fun n _ => ⟨n, Nat.le_refl n, rfl⟩⟩,
    fun _ _ => Turn.noConfusion, rfl, fun _ _ _ h => nomatch h⟩

/-- `EveryScheduleBeginsAFairRun`: a run. -/
theorem witness_run : ∃ state turn, IsRun state turn :=
  let ⟨state, turn, h, _⟩ := witness_fairRun
  ⟨state, turn, h.1⟩

end Sys2Proof.Tests
end

section
/-! SUPPORT. The reset state, read through the model's accessors (R36). -/

namespace Sys2Proof.Proofs.Reset

open Sys2Proof Sys2Proof.Machine

/-! ## What an unlisted address reads as -/

/-- Sixteen glyphs of five bytes (R52). -/
theorem fontTable_length : Config.fontTable.length = 0x50 := rfl

theorem unlisted_of_lt_fontTable {a : Nat} (h : a < Config.fontTable.length) :
    Memory.unlisted a = Config.fontTable[a] :=
  (List.getElem_eq_getD 0).symm

theorem unlisted_of_fontTable_le {a : Nat} (h : 0x50 ≤ a) : Memory.unlisted a = 0 := by
  have past_end : Config.fontTable[a]? = none := List.getElem?_eq_none (fontTable_length ▸ h)
  rw [Memory.unlisted, List.getD_eq_getElem?_getD, past_end, Option.getD_none]

/-! ## The reset state's accessors -/

@[simp] theorem reset_reg (r : Nibble) : State.reset.reg r = 0 := Vector.getElem_replicate _

theorem reset_stack (k : Fin 16) : State.reset.stack[k] = 0 := Vector.getElem_replicate _

@[simp] theorem reset_keyDown (k : Nibble) : State.reset.keyDown k = false := Vector.getElem_replicate _

@[simp] theorem reset_fb : State.reset.fb = Framebuffer.clear := rfl

/-- Memory lists no cell, so every address reads as its reset contents (R53). -/
theorem reset_peek (a : Nat) : State.reset.peek a = Memory.unlisted a := rfl

/-- Settles O14: the font and the zeros above it are what an unlisted address reads as; registers, stack, pixels and keys
are constant vectors; the other fields are read off the definition. -/
theorem resetHoldsTheValuesOfTheSpec : Obligations.ResetHoldsTheValuesOfTheSpec := by
  have font : ∀ a (h : a < Config.fontTable.length), State.reset.peek a = Config.fontTable[a] :=
    fun a h => (reset_peek a).trans (unlisted_of_lt_fontTable h)
  have above : ∀ a, 0x50 ≤ a → State.reset.peek a = 0 :=
    fun a h => (reset_peek a).trans (unlisted_of_fontTable_le h)
  have pixels : ∀ r c, State.reset.fb.get r c = false := fun r c => by rw [reset_fb, Framebuffer.get_clear]
  exact ⟨reset_reg, rfl, rfl, rfl, reset_stack, rfl, rfl, pixels, font, fontTable_length, above, rfl, rfl, rfl,
    reset_keyDown, rfl⟩

end Sys2Proof.Proofs.Reset
end

section
/-! SUPPORT. The decoder undoes the encoder (R57, R70, R72, R75). -/

namespace Sys2Proof.Proofs.Encoding

open Sys2Proof

/-- On words, class by class (R74): the class of the encoding selects the decoder's branch, and in the classes 0, 8, E and
F its second discriminant then selects the row. -/
theorem decodeWord_encode (i : Instr) : decodeWord (encode i) = .instr i := by
  cases i with
  | jp | call | seImm | sneImm | seReg | ldImm | addImm | sneReg | ldI | jpV0 | rnd | drw =>
    simp [encode, decodeWord]
  | cls | ret => simp [encode, decodeWord, decodeClass0]
  | ldReg | orReg | andReg | xorReg | addReg | subReg | shr | subnReg | shl =>
    simp [encode, decodeWord, decodeClass8]
  | skp | sknp => simp [encode, decodeWord, decodeClassE]
  | ldVxDT | ldVxK | ldDTVx | ldSTVx | addI | ldF | ldB | stRegs | ldRegs =>
    simp [encode, decodeWord, decodeClassF]

/-- The decoder reads the word whose two bytes come first, and leaves the bytes after them. -/
theorem decode_wordBytes_append (w : Word) (rest : List Byte) :
    decode ([w.hi, w.lo] ++ rest) = (decodeWord w, rest) :=
  congrArg (decodeWord · , rest) (wordOfBytes_hi_lo w)

/-- Settles O1: the two bytes make up the encoded word again, and the decoder undoes the encoder on words. -/
theorem decodeOfEncodeIsTheInstruction : Obligations.DecodeOfEncodeIsTheInstruction := by
  intro i rest
  calc decode (encodeBytes i ++ rest)
    _ = (decodeWord (encode i), rest) := decode_wordBytes_append (encode i) rest
    _ = (.instr i, rest) := by rw [decodeWord_encode]

end Sys2Proof.Proofs.Encoding
end

section
/-! SUPPORT. The fields of a word as numbers (R71), the rows of the opcode map and the words they select (R74, R75). -/

namespace Sys2Proof.Proofs.Encoding

open Sys2Proof

/-! ## The fields as numbers (R71) -/

/-- The bits of a word from `lo` up, `len` of them, as a number. -/
theorem toNat_extractLsb' (w : Word) (lo len : Nat) :
    (w.extractLsb' lo len).toNat = w.toNat / 2 ^ lo % 2 ^ len := by
  rw [BitVec.extractLsb'_toNat, Nat.shiftRight_eq_div_pow]

/-- Settles O6: each field is a quotient by a power of two, reduced modulo another; the class needs no reduction, since a
word has only four bits above bit 11. -/
theorem wordFieldsAreTheirBits : Obligations.WordFieldsAreTheirBits := by
  intro w
  have opClass : w.opClass.toNat = w.toNat / 4096 :=
    (toNat_extractLsb' w 12 4).trans (Nat.mod_eq_of_lt (Nat.div_lt_of_lt_mul w.isLt))
  have from_bit_0 (len : Nat) : (w.extractLsb' 0 len).toNat = w.toNat % 2 ^ len := by
    rw [toNat_extractLsb', Nat.pow_zero, Nat.div_one]
  exact ⟨opClass, toNat_extractLsb' w 8 4, toNat_extractLsb' w 4 4, from_bit_0 4, from_bit_0 12, from_bit_0 8⟩

/-! ## A word that decodes is the encoding of its instruction -/

section
variable {w : Word} {c n : Nibble} {k : Byte} {i : Instr}

theorem encNNN_eq_word (hc : w.opClass = c) : encNNN c w.nnn = w := hc ▸ encNNN_of_fields w

theorem encXKK_eq_word (hc : w.opClass = c) (hk : w.kk = k) : encXKK c w.x k = w := hc ▸ hk ▸ encXKK_of_fields w

theorem encXYN_eq_word (hc : w.opClass = c) (hn : w.n = n) : encXYN c w.x w.y n = w := hc ▸ hn ▸ encXYN_of_fields w

theorem encode_of_decodeClass0 (hc : w.opClass = 0x0) (h : decodeClass0 w = .instr i) : encode i = w := by
  unfold decodeClass0 at h
  split at h
  case h_3 => cases h
  all_goals cases h; exact encXKK_eq_word hc ‹_›

theorem encode_of_decodeClass8 (hc : w.opClass = 0x8) (h : decodeClass8 w = .instr i) : encode i = w := by
  unfold decodeClass8 at h
  split at h
  case h_10 => cases h
  all_goals cases h; exact encXYN_eq_word hc ‹_›

theorem encode_of_decodeClassE (hc : w.opClass = 0xE) (h : decodeClassE w = .instr i) : encode i = w := by
  unfold decodeClassE at h
  split at h
  case h_3 => cases h
  all_goals cases h; exact encXKK_eq_word hc ‹_›

theorem encode_of_decodeClassF (hc : w.opClass = 0xF) (h : decodeClassF w = .instr i) : encode i = w := by
  unfold decodeClassF at h
  split at h
  case h_10 => cases h
  all_goals cases h; exact encXKK_eq_word hc ‹_›

/-- The decoder drops no bit of a word it reads an instruction from (R75; assumption 7). -/
theorem encode_of_decodeWord (h : decodeWord w = .instr i) : encode i = w := by
  unfold decodeWord at h
  split at h
  case h_1 hc => exact encode_of_decodeClass0 hc h
  case h_9 hc => exact encode_of_decodeClass8 hc h
  case h_15 hc => exact encode_of_decodeClassE hc h
  case h_16 =>
    -- fifteen of the sixteen classes are excluded
    have hc : w.opClass = 0xF := by generalize w.opClass = c at *; revert c; decide
    exact encode_of_decodeClassF hc h
  case h_2 hc | h_3 hc | h_11 hc | h_12 hc => cases h; exact encNNN_eq_word hc
  case h_4 hc | h_5 hc | h_7 hc | h_8 hc | h_13 hc => cases h; exact encXKK_eq_word hc rfl
  case h_6 hc | h_10 hc | h_14 hc => cases h; exact encXYN_eq_word hc rfl

end

/-! ## What a row's match says of the fields (R74, R75) -/

section
variable {w bits : Word}

theorem opClass_of_and_class (h : w &&& 0xF000 = bits) : w.opClass = bits.opClass := by
  rw [← h, ← encXKK_of_fields w, encXKK_and_class, encXKK_opClass, encXKK_opClass]

theorem fields_of_and_byte (h : w &&& 0xF0FF = bits) : w.opClass = bits.opClass ∧ w.kk = bits.kk := by
  rw [← h, ← encXKK_of_fields w, encXKK_and_byte]; simp

theorem fields_of_and_nibble (h : w &&& 0xF00F = bits) : w.opClass = bits.opClass ∧ w.n = bits.n := by
  rw [← h, ← encXYN_of_fields w, encXYN_and_nibble]; simp

end

/-! ## A match selects the decoder's branch, by the mask of the row (R74) -/

/-- The rows under one mask. -/
def rowsWithMask (mask : Word) : List OpcodeRow := opcodeMap.filter (·.mask = mask)

theorem mem_rowsWithMask {row : OpcodeRow} (h : row ∈ opcodeMap) : row ∈ rowsWithMask row.mask :=
  List.mem_filter.2 ⟨h, decide_eq_true rfl⟩

section
variable {w : Word} {row : OpcodeRow}

/-- The rows that are their whole class: the decoder looks at the class alone. -/
theorem decodeWord_of_class_match (hrow : row ∈ rowsWithMask 0xF000) (h : w &&& 0xF000 = row.bits) :
    ∃ i, decodeWord w = .instr i ∧ i.mnemonic = row.mnemonic := by
  have hc := opClass_of_and_class h
  clear h
  repeat
    rcases List.mem_cons.1 hrow with rfl | hrow
    · simp only [decodeWord, hc]
      exact ⟨_, rfl, rfl⟩
  exact nomatch hrow

/-- The rows of class 8: the class and the low nibble. -/
theorem decodeWord_of_nibble_match (hrow : row ∈ rowsWithMask 0xF00F) (h : w &&& 0xF00F = row.bits) :
    ∃ i, decodeWord w = .instr i ∧ i.mnemonic = row.mnemonic := by
  obtain ⟨hc, hn⟩ := fields_of_and_nibble h
  clear h
  repeat
    rcases List.mem_cons.1 hrow with rfl | hrow
    · simp only [decodeWord, decodeClass8, hc, hn]
      exact ⟨_, rfl, rfl⟩
  exact nomatch hrow

/-- The rows of the classes 0, E and F: the class and the low byte. -/
theorem decodeWord_of_byte_match (hrow : row ∈ rowsWithMask 0xF0FF) (h : w &&& 0xF0FF = row.bits) :
    ∃ i, decodeWord w = .instr i ∧ i.mnemonic = row.mnemonic := by
  obtain ⟨hc, hk⟩ := fields_of_and_byte h
  clear h
  repeat
    rcases List.mem_cons.1 hrow with rfl | hrow
    · simp only [decodeWord, decodeClass0, decodeClassE, decodeClassF, hc, hk]
      exact ⟨_, rfl, rfl⟩
  exact nomatch hrow

end

theorem mask_cases : ∀ row ∈ opcodeMap, row.mask = 0xF000 ∨ row.mask = 0xF00F ∨ row.mask = 0xF0FF := by decide

/-- A word under a row's mask that equals the row's match decodes to that row's instruction: the mask keeps every field
the decoder selects by. -/
theorem decodeWord_of_match (w : Word) (row : OpcodeRow) (hrow : row ∈ opcodeMap) (h : w &&& row.mask = row.bits) :
    ∃ i, decodeWord w = .instr i ∧ i.mnemonic = row.mnemonic := by
  have hmem := mem_rowsWithMask hrow
  rcases mask_cases row hrow with hm | hm | hm <;> rw [hm] at hmem h
  · exact decodeWord_of_class_match hmem h
  · exact decodeWord_of_nibble_match hmem h
  · exact decodeWord_of_byte_match hmem h

/-! ## The rows of the opcode map -/

theorem row_eq_of_mnemonic_eq :
    ∀ row ∈ opcodeMap, ∀ row' ∈ opcodeMap, row.mnemonic = row'.mnemonic → row = row' := by decide

theorem encode_matches_its_row : ∀ i : Instr,
    ∃ row ∈ opcodeMap, row.mnemonic = i.mnemonic ∧ encode i &&& row.mask = row.bits
  | .cls _ => Laws.Encoding.cls _
  | .ret _ => Laws.Encoding.ret _
  | .jp _ => Laws.Encoding.jp _
  | .call _ => Laws.Encoding.call _
  | .seImm _ _ => Laws.Encoding.seImm _ _
  | .sneImm _ _ => Laws.Encoding.sneImm _ _
  | .seReg _ _ _ => Laws.Encoding.seReg _ _ _
  | .ldImm _ _ => Laws.Encoding.ldImm _ _
  | .addImm _ _ => Laws.Encoding.addImm _ _
  | .ldReg _ _ => Laws.Encoding.ldReg _ _
  | .orReg _ _ => Laws.Encoding.orReg _ _
  | .andReg _ _ => Laws.Encoding.andReg _ _
  | .xorReg _ _ => Laws.Encoding.xorReg _ _
  | .addReg _ _ => Laws.Encoding.addReg _ _
  | .subReg _ _ => Laws.Encoding.subReg _ _
  | .shr _ _ => Laws.Encoding.shr _ _
  | .subnReg _ _ => Laws.Encoding.subnReg _ _
  | .shl _ _ => Laws.Encoding.shl _ _
  | .sneReg _ _ _ => Laws.Encoding.sneReg _ _ _
  | .ldI _ => Laws.Encoding.ldI _
  | .jpV0 _ => Laws.Encoding.jpV0 _
  | .rnd _ _ => Laws.Encoding.rnd _ _
  | .drw _ _ _ => Laws.Encoding.drw _ _ _
  | .skp _ => Laws.Encoding.skp _
  | .sknp _ => Laws.Encoding.sknp _
  | .ldVxDT _ => Laws.Encoding.ldVxDT _
  | .ldVxK _ => Laws.Encoding.ldVxK _
  | .ldDTVx _ => Laws.Encoding.ldDTVx _
  | .ldSTVx _ => Laws.Encoding.ldSTVx _
  | .addI _ => Laws.Encoding.addI _
  | .ldF _ => Laws.Encoding.ldF _
  | .ldB _ => Laws.Encoding.ldB _
  | .stRegs _ => Laws.Encoding.stRegs _
  | .ldRegs _ => Laws.Encoding.ldRegs _

/-- A word that decodes to a row's instruction matches that row: it is the instruction's encoding, which matches the row
of its own mnemonic. -/
theorem match_of_decodeWord {w : Word} {i : Instr} {row : OpcodeRow} (hrow : row ∈ opcodeMap)
    (hd : decodeWord w = .instr i) (hm : i.mnemonic = row.mnemonic) : w &&& row.mask = row.bits := by
  obtain ⟨own, hown, hmn, hmatch⟩ := encode_matches_its_row i
  obtain rfl := row_eq_of_mnemonic_eq own hown row hrow (hmn.trans hm)
  rwa [encode_of_decodeWord hd] at hmatch

/-- Two rows a word matches both carry the mnemonic of the instruction it decodes to. -/
theorem row_unique_of_match {w : Word} {row row' : OpcodeRow} (hrow : row ∈ opcodeMap) (hrow' : row' ∈ opcodeMap)
    (h : w &&& row.mask = row.bits) (h' : w &&& row'.mask = row'.bits) : row = row' := by
  obtain ⟨i, hi, hm⟩ := decodeWord_of_match w row hrow h
  obtain ⟨j, hj, hm'⟩ := decodeWord_of_match w row' hrow' h'
  obtain rfl : i = j := Decoded.instr.inj (hi.symm.trans hj)
  exact row_eq_of_mnemonic_eq row hrow row' hrow' (hm.symm.trans hm')

/-- Settles O3: a match fixes the fields the decoder selects by, and a decoded instruction's encoding is its word. -/
theorem opcodeMapSelectsTheInstruction : Obligations.OpcodeMapSelectsTheInstruction :=
  ⟨rfl, fun w => ⟨
    fun row hrow => ⟨decodeWord_of_match w row hrow, fun ⟨_, hd, hm⟩ => match_of_decodeWord hrow hd hm⟩,
    fun _ hrow _ hrow' => row_unique_of_match hrow hrow'⟩⟩

end Sys2Proof.Proofs.Encoding
end

section
/-! SUPPORT. A step of the running engine (R80, R82). -/

namespace Sys2Proof.Proofs.Step

open Sys2Proof Sys2Proof.Machine

/-- The word the engine would fetch at `pc` (R57, R80). -/
def wordAtPc (s : State) : Word := wordOfBytes (s.peek s.pc.toNat) (s.peek (s.pc.toNat + 1))

section
variable {s : State}

/-! ## The instruction step, by what is at `pc` -/

theorem instructionStep_of_beyond (hpc : Config.memSize ≤ s.pc.toNat + 1) :
    instructionStep s = .next (s.faulted (.memOutOfBounds (max s.pc.toNat Config.memSize) .fetch) none) := by
  rcases instructionStep_cases s with ⟨-, h⟩ | ⟨hlt, -⟩ | ⟨hlt, -⟩
  · rw [h, State.fetchFault_eq]
  · omega
  · omega

theorem instructionStep_of_fits (hpc : s.pc.toNat + 1 < Config.memSize) :
    (∀ i, decodeWord (wordAtPc s) = .instr i → instructionStep s = exec i s) ∧
    (decodeWord (wordAtPc s) = .unknownOpcode (wordAtPc s) → instructionStep s = execUnknown (wordAtPc s) s) := by
  rcases instructionStep_cases s with ⟨hge, -⟩ | ⟨-, j, hj, h⟩ | ⟨-, w, rfl, hw, h⟩
  · omega
  · have hj : decodeWord (wordAtPc s) = .instr j := hj
    exact ⟨fun i hi => by rw [h, Decoded.instr.inj (hj.symm.trans hi)], fun hu => nomatch hj.symm.trans hu⟩
  · exact ⟨fun i hi => (nomatch hw.symm.trans hi), fun _ => h⟩

/-! ## The engine's turn -/

/-- With nothing scheduled the engine moves, as on its scheduled turn (assumption 2). -/
theorem step_of_engine {ts : List Turn} (hrun : s.run = .running)
    (hturn : s.schedule = [] ∧ ts = [] ∨ s.schedule = .engine :: ts) :
    step s = instructionStep (s.setSchedule ts) := by
  rcases hturn with ⟨hnil, rfl⟩ | hcons
  · rw [State.setSchedule_self s [] hnil]
    simp only [step, hnil, engineAlone, hrun]
  · simp only [step, hcons, takeTurn, State.setSchedule_run, hrun, if_true]

end

/-- Settles O7: the engine's turn is the instruction step, whose three ends are told apart by `pc` and the word there. -/
theorem stepFetchesDecodesAndExecutes : Obligations.StepFetchesDecodesAndExecutes := by
  intro s ts hrun hturn s' w
  have hstep : step s = instructionStep s' := step_of_engine hrun hturn
  have fault (hpc : Config.memSize ≤ s.pc.toNat + 1) :
      step s = .next (s'.faulted (.memOutOfBounds (max s.pc.toNat Config.memSize) .fetch) none) :=
    hstep.trans (instructionStep_of_beyond (s := s') hpc)
  refine ⟨fun hpc => ?_, fun hpc => ?_, fun hpc => ?_⟩
  · rw [fault (Nat.le_succ_of_le hpc), Nat.max_eq_left hpc]
  · rw [fault (Nat.le_of_eq hpc.symm), Nat.max_eq_right (Nat.le_of_succ_le (Nat.le_of_eq hpc))]
  · obtain ⟨instr, unknown⟩ := instructionStep_of_fits (s := s') hpc
    exact ⟨fun i hi => hstep.trans (instr i hi), fun hu => hstep.trans (unknown hu)⟩

end Sys2Proof.Proofs.Step
end

section
/-! SUPPORT. The row of an instruction in the opcode map (R75). -/

namespace Sys2Proof.Proofs.Encoding

open Sys2Proof Sys2Proof.Machine

/-- An instruction is in the row that carries its mnemonic. -/
theorem inRow_of_mem {i : Instr} {row : OpcodeRow} (hrow : row ∈ opcodeMap) (hm : row.mnemonic = i.mnemonic) :
    InRow i row.mask row.bits :=
  have hd : decodeWord (encode i) = .instr i := decodeWord_encode i
  ⟨match_of_decodeWord hrow hd hm.symm, hd⟩

end Sys2Proof.Proofs.Encoding
end

section
/-! SUPPORT. The frames of the named updates (R9): each leaves everything but what its name says. -/

namespace Sys2Proof.Proofs.Frames

open Sys2Proof Sys2Proof.Machine

section
variable {ps : List Piece} {rs : List Nibble} {base len : Nat}

/-- An update of one piece of state, with no register and no byte of memory touched. -/
theorem keeps_of_piece {s t : State} {q : Piece} (hq : q ∈ ps) (pieces : ∀ p, p ≠ q → p.Same s t)
    (regs : ∀ r, t.reg r = s.reg r) (mem : ∀ a, t.peek a = s.peek a) : Keeps s t ps rs base len :=
  ⟨fun p hp => pieces p fun e => hp (e ▸ hq), fun r _ => regs r, fun a _ => mem a⟩

variable (s : State)

theorem setFb_keeps (fb : Framebuffer) (h : .fb ∈ ps) : Keeps s (s.setFb fb) ps rs base len := by
  refine keeps_of_piece h (fun p hp => ?_) (fun _ => rfl) (fun _ => rfl)
  cases p
  case fb => exact absurd rfl hp
  all_goals simp [Piece.Same]

theorem emit_keeps (e : Output) (h : .outputs ∈ ps) : Keeps s (s.emit e) ps rs base len := by
  refine keeps_of_piece h (fun p hp => ?_) (fun _ => rfl) (fun _ => rfl)
  cases p
  case outputs => exact absurd rfl hp
  all_goals simp [Piece.Same]

theorem advance_keeps (h : .pc ∈ ps) : Keeps s s.advance ps rs base len := by
  refine keeps_of_piece h (fun p hp => ?_) (fun _ => rfl) (fun _ => rfl)
  cases p
  case pc => exact absurd rfl hp
  all_goals simp [Piece.Same]

theorem setReg_keeps (r : Nibble) (b : Byte) (h : r ∈ rs) : Keeps s (s.setReg r b) ps rs base len := by
  refine ⟨fun p _ => ?_, fun x hx => ?_, fun _ _ => rfl⟩
  · cases p <;> simp [Piece.Same]
  · exact State.setReg_reg_of_ne s r x b fun e => hx (e ▸ h)

theorem setFlag_keeps (f : Bool) (h : VF ∈ rs) : Keeps s (s.setFlag f) ps rs base len :=
  setReg_keeps s VF (flagByte f) h

end

end Sys2Proof.Proofs.Frames
end

section
/-! SUPPORT. The two values of a flag (R21). -/

namespace Sys2Proof.Proofs.Flags

open Sys2Proof Sys2Proof.Machine

theorem flagByte_eq_zero_or_one (f : Bool) : flagByte f = 0 ∨ flagByte f = 1 := by cases f <;> decide

theorem flagByte_eq_one_iff (f : Bool) : flagByte f = 1 ↔ f = true := by cases f <;> decide

end Sys2Proof.Proofs.Flags
end

section
/-! SUPPORT. The instructions that write the framebuffer: clear-screen (R100) and draw (R101). -/

namespace Sys2Proof.Proofs.Display

open Sys2Proof Sys2Proof.Machine Sys2Proof.Proofs.Encoding Sys2Proof.Proofs.Frames
  Sys2Proof.Proofs.Flags

section
variable (s : State)

/-! ## How both end: the new framebuffer, its Repaint, the advance -/

/-- The framebuffer replaced and repainted, and `pc` advanced (R100, R101). -/
def repainted (s : State) (fb : Framebuffer) : State := ((s.setFb fb).emit (.repaint fb)).advance

@[simp] theorem repainted_fb (fb : Framebuffer) : (repainted s fb).fb = fb := rfl

@[simp] theorem repainted_outputs (fb : Framebuffer) : (repainted s fb).outputs = .repaint fb :: s.outputs := rfl

@[simp] theorem repainted_pc (fb : Framebuffer) : (repainted s fb).pc = s.pc + 2 := rfl

@[simp] theorem repainted_reg (fb : Framebuffer) (r : Nibble) : (repainted s fb).reg r = s.reg r := rfl

theorem repainted_keeps (fb : Framebuffer) (rs : List Nibble) :
    KeepsAllBut s (repainted s fb) [.fb, .outputs, .pc] rs :=
  ((setFb_keeps s fb (by decide)).trans (emit_keeps _ _ (by decide))).trans (advance_keeps _ (by decide))

/-! ## clear-screen (R100) -/

theorem exec_cls (ign : Nibble) : exec (.cls ign) s = .next (repainted s Framebuffer.clear) := rfl

/-! ## draw (R101) -/

/-- The framebuffer and the flag that a draw leaves: its operands are those of `s`, and its sprite is the `n` bytes
from `I`. -/
def drawn (s : State) (x y n : Nibble) : DrawState :=
  drawSprite s.fb (s.reg x).toNat (s.reg y).toNat (s.peekBytes s.i.toNat n.toNat)

variable (x y n : Nibble)

theorem exec_drw :
    exec (.drw x y n) s = withRange (.drw x y n) .read s.i.toNat n.toNat s (s.draw x y n) := rfl

theorem draw_eq : s.draw x y n = repainted (s.setFlag (drawn s x y n).collision) (drawn s x y n).fb := rfl

theorem draw_fb : (s.draw x y n).fb = (drawn s x y n).fb := rfl

theorem draw_outputs : (s.draw x y n).outputs = .repaint (s.draw x y n).fb :: s.outputs := rfl

theorem draw_pc : (s.draw x y n).pc = s.pc + 2 := rfl

/-- A sprite has at most 15 rows, so no two of them share a row of the framebuffer. -/
theorem sprite_length_le (base : Nat) : (s.peekBytes base n.toNat).length ≤ 32 := by
  rw [State.peekBytes_length]; omega

theorem drawn_get_target {j i : Nat} (hj : j < n.toNat) (hi : i < 8) :
    (drawn s x y n).fb.get (spriteRow (s.reg y).toNat j) (spriteCol (s.reg x).toNat i) =
      (s.fb.get (spriteRow (s.reg y).toNat j) (spriteCol (s.reg x).toNat i) ^^
        (s.peek (s.i.toNat + j)).getLsbD i) := by
  have hlen : j < (s.peekBytes s.i.toNat n.toNat).length := by rwa [State.peekBytes_length]
  rw [drawn, drawSprite_target _ _ _ _ (sprite_length_le s n _) j hlen i hi, State.peekBytes_getElem]

theorem drawn_get_other {r : Fin 32} {c : Fin 64}
    (h : ∀ j < n.toNat, ∀ i < 8, ¬(r = spriteRow (s.reg y).toNat j ∧ c = spriteCol (s.reg x).toNat i)) :
    (drawn s x y n).fb.get r c = s.fb.get r c :=
  drawSprite_other _ _ _ _ r c (by rwa [State.peekBytes_length])

theorem drawn_collision :
    (drawn s x y n).collision = true ↔ ∃ j < n.toNat, ∃ i < 8,
      s.fb.get (spriteRow (s.reg y).toNat j) (spriteCol (s.reg x).toNat i) = true ∧
      (s.peek (s.i.toNat + j)).getLsbD i = true := by
  simp only [drawn, drawSprite_collision _ _ _ _ (sprite_length_le s n _), State.peekBytes_length,
    State.peekBytes_getElem, exists_prop]

/-- VF holds the flag after the draw, also where VF is a coordinate (D12). -/
theorem draw_reg_VF : (s.draw x y n).reg VF = flagByte (drawn s x y n).collision := by
  rw [draw_eq, repainted_reg, State.setFlag_reg, if_pos rfl]

theorem draw_keeps : KeepsAllBut s (s.draw x y n) [.fb, .outputs, .pc] [VF] :=
  (setFlag_keeps s (drawn s x y n).collision (by decide)).trans (repainted_keeps _ (drawn s x y n).fb _)

end

/-- Settles O24: clear-screen repaints the clear framebuffer. -/
theorem clearScreenClearsAndRepaints : Obligations.ClearScreenClearsAndRepaints := by
  intro s ign
  have row : InRow (.cls ign) 0xF0FF 0x00E0 := inRow_of_mem (row := ⟨0xF0FF, 0x00E0, "CLS"⟩) (by decide) rfl
  have clear : ∀ r c, (repainted s Framebuffer.clear).fb.get r c = false := fun r c => by
    rw [repainted_fb, Framebuffer.get_clear]
  exact ⟨row, _, exec_cls s ign, clear, repainted_outputs s _, repainted_pc s _, repainted_keeps s _ []⟩

/-- Settles O25: the range check decides between the fault and the draw, whose pixels and flag are those of `drawSprite`
on the bytes from `I`. -/
theorem drawXorsTheSprite : Obligations.DrawXorsTheSprite := by
  intro s x y n
  have row : InRow (.drw x y n) 0xF000 0xD000 :=
    inRow_of_mem (row := ⟨0xF000, 0xD000, "DRW_Vx__Vy__n"⟩) (by decide) rfl
  have faults : ∀ a, LowestBeyond s.i.toNat n.toNat a → FaultsWith (.drw x y n) s (.memOutOfBounds a .read) :=
    fun a ha => (exec_drw s x y n).trans (withRange_of_lowestBeyond ha)
  refine ⟨row, faults, fun hin => ⟨s.draw x y n, ?_⟩⟩
  have draws : exec (.drw x y n) s = .next (s.draw x y n) := (exec_drw s x y n).trans (withRange_of_inRange hin)
  refine ⟨draws, ?_, ?_, ?_, ?_, draw_outputs s x y n, draw_pc s x y n, draw_keeps s x y n⟩ <;>
    simp only [draw_fb, draw_reg_VF]
  · exact fun j hj i hi => drawn_get_target s x y n hj hi
  · exact fun r c h => drawn_get_other s x y n h
  · exact flagByte_eq_zero_or_one _
  · rw [flagByte_eq_one_iff, drawn_collision]

end Sys2Proof.Proofs.Display
end

section
/-! SUPPORT. The instructions that write `pc` otherwise than by the sequential advance: return, jump, call and
jump-add (R110 to R112, R117), and the immediate and register skips (R113 to R116). -/

namespace Sys2Proof.Proofs.Control

open Sys2Proof Sys2Proof.Machine Sys2Proof.Proofs.Encoding Sys2Proof.Proofs.Frames

/-! ## The frames of the two updates they are made of (R9) -/

section
variable (s : State) {ps : List Piece} {rs : List Nibble} {base len : Nat}

theorem setPc_keeps (w : Word) (h : .pc ∈ ps) : Keeps s (s.setPc w) ps rs base len := by
  refine keeps_of_piece h (fun p hp => ?_) (fun _ => rfl) (fun _ => rfl)
  cases p
  case pc => exact absurd rfl hp
  all_goals simp [Piece.Same]

theorem setFrames_keeps (stack : Vector Word 16) (sp : Fin 17) (h : .frames ∈ ps) :
    Keeps s (s.setFrames stack sp) ps rs base len := by
  refine keeps_of_piece h (fun p hp => ?_) (fun _ => rfl) (fun _ => rfl)
  cases p
  case frames => exact absurd rfl hp
  all_goals simp [Piece.Same]

theorem setFrames_setPc_keeps (stack : Vector Word 16) (sp : Fin 17) (w : Word) :
    KeepsAllBut s ((s.setFrames stack sp).setPc w) [.frames, .pc] [] :=
  (setFrames_keeps s stack sp (by decide)).trans (setPc_keeps _ w (by decide))

end

section
variable {s : State}

/-! ## return (R110) and call (R112), by the number of frames in use -/

theorem exec_ret_of_no_frame (ign : Nibble) (hsp : s.sp = 0) : FaultsWith (.ret ign) s .stackUnderflow :=
  have hempty : s.sp.val = 0 := congrArg Fin.val hsp
  (dif_pos hempty : execRet ign s = _).trans (raise_eq _ _ s)

theorem exec_ret_of_frame (ign : Nibble) {k : Fin 16} (hsp : s.sp.val = k.val + 1) :
    exec (.ret ign) s = .next ((s.setFrames s.stack k.castSucc).setPc s.stack[k]) := by
  have hused : s.sp.val ≠ 0 := by omega
  have hpop : s.sp.val - 1 = k.val := by omega
  refine (dif_neg hused : execRet ign s = _).trans ?_
  simp only [hpop]
  rfl

theorem exec_call_of_full (nnn : Addr) (hsp : s.sp = 16) : FaultsWith (.call nnn) s .stackOverflow :=
  have hfull : ¬s.sp.val < 16 := by rw [hsp]; decide
  (dif_neg hfull : execCall nnn s = _).trans (raise_eq _ _ s)

theorem exec_call_of_room (nnn : Addr) {k : Fin 16} (hsp : s.sp.val = k.val) :
    exec (.call nnn) s =
      .next ((s.setFrames (s.stack.set k.val (s.pc + 2)) k.succ).setPc (addrWord nnn)) := by
  have hroom : s.sp.val < 16 := hsp ▸ k.isLt
  refine (dif_pos hroom : execCall nnn s = _).trans ?_
  simp only [hsp]
  rfl

/-! ## jump (R111) and jump-add (R117) -/

theorem exec_jp (nnn : Addr) : exec (.jp nnn) s = .next (s.setPc (addrWord nnn)) := rfl

theorem exec_jpV0 (nnn : Addr) : exec (.jpV0 nnn) s = .next (s.setPc (addrWord nnn + byteWord (s.reg 0))) := rfl

/-- An address plus a byte is at most 0x10FE, so the 16-bit sum is the exact one (D7). -/
theorem addrWord_add_byteWord_toNat (nnn : Addr) (b : Byte) :
    (addrWord nnn + byteWord b).toNat = nnn.toNat + b.toNat := by
  have hsum : (addrWord nnn).toNat + (byteWord b).toNat < 2 ^ 16 := by
    rw [addrWord_toNat, byteWord_toNat]; omega
  rw [BitVec.toNat_add_of_lt hsum, addrWord_toNat, byteWord_toNat]

/-! ## The skips (R113 to R116) -/

/-- What an instruction does that skips exactly when `P` holds: all four skips differ only in `P`. -/
theorem exec_of_skipIf {i : Instr} {c : Bool} {P : Prop} [Decidable P] (hexec : exec i s = .next (s.skipIf c))
    (hc : c = true ↔ P) :
    ∃ t, exec i s = .next t ∧ t.pc = (if P then s.pc + 4 else s.pc + 2) ∧ KeepsAllBut s t [.pc] [] := by
  refine ⟨s.skipIf c, hexec, ?_, setPc_keeps s _ (by decide)⟩
  rw [State.skipIf_pc]
  by_cases hP : P
  · rw [if_pos (hc.mpr hP), if_pos hP]
  · rw [if_neg fun h => hP (hc.mp h), if_neg hP]

end

/-- Settles O27: with no frame in use the pop faults; otherwise `sp` counts to the entry that `pc` is taken from. -/
theorem returnPopsTheStack : Obligations.ReturnPopsTheStack := by
  intro s ign
  have row : InRow (.ret ign) 0xF0FF 0x00EE := inRow_of_mem (row := ⟨0xF0FF, 0x00EE, "RET"⟩) (by decide) rfl
  exact ⟨row, exec_ret_of_no_frame ign, fun k hsp =>
    ⟨_, exec_ret_of_frame ign hsp, rfl, rfl, rfl, setFrames_setPc_keeps s _ _ _⟩⟩

/-- Settles O28: the 12-bit target fits the 16-bit `pc`. -/
theorem jumpSetsPc : Obligations.JumpSetsPc := by
  intro s nnn
  have row : InRow (.jp nnn) 0xF000 0x1000 := inRow_of_mem (row := ⟨0xF000, 0x1000, "JP_nnn"⟩) (by decide) rfl
  exact ⟨row, _, exec_jp nnn, addrWord_toNat nnn, setPc_keeps s _ (by decide)⟩

/-- Settles O29: with all frames in use the push faults; otherwise it writes the one entry that `sp` counted to. -/
theorem callPushesTheReturnAddress : Obligations.CallPushesTheReturnAddress := by
  intro s nnn
  have row : InRow (.call nnn) 0xF000 0x2000 := inRow_of_mem (row := ⟨0xF000, 0x2000, "CALL_nnn"⟩) (by decide) rfl
  refine ⟨row, exec_call_of_full nnn, fun k hsp => ?_⟩
  have pushed : (s.stack.set k.val (s.pc + 2))[k] = s.pc + 2 := Vector.getElem_set_self k.isLt
  have others : ∀ j : Fin 16, j ≠ k → (s.stack.set k.val (s.pc + 2))[j] = s.stack[j] := fun j hj =>
    Vector.getElem_set_ne k.isLt j.isLt fun e => hj (Fin.ext e.symm)
  exact ⟨_, exec_call_of_room nnn hsp, pushed, others, rfl, addrWord_toNat nnn, setFrames_setPc_keeps s _ _ _⟩

/-- Settles O31: both are `skipIf`, on `V[x]` and `kk` being equal or different. -/
theorem immediateSkipsCompare : Obligations.ImmediateSkipsCompare := by
  intro s x kk
  have seRow : InRow (.seImm x kk) 0xF000 0x3000 :=
    inRow_of_mem (row := ⟨0xF000, 0x3000, "SE_Vx__kk"⟩) (by decide) rfl
  have sneRow : InRow (.sneImm x kk) 0xF000 0x4000 :=
    inRow_of_mem (row := ⟨0xF000, 0x4000, "SNE_Vx__kk"⟩) (by decide) rfl
  exact ⟨⟨seRow, exec_of_skipIf rfl beq_iff_eq⟩, ⟨sneRow, exec_of_skipIf rfl bne_iff_ne⟩⟩

/-- Settles O32: both are `skipIf`, on `V[x]` and `V[y]` being equal or different. -/
theorem registerSkipsCompare : Obligations.RegisterSkipsCompare := by
  intro s x y ign
  have seRow : InRow (.seReg x y ign) 0xF000 0x5000 :=
    inRow_of_mem (row := ⟨0xF000, 0x5000, "SE_Vx__Vy"⟩) (by decide) rfl
  have sneRow : InRow (.sneReg x y ign) 0xF000 0x9000 :=
    inRow_of_mem (row := ⟨0xF000, 0x9000, "SNE_Vx__Vy"⟩) (by decide) rfl
  exact ⟨⟨seRow, exec_of_skipIf rfl beq_iff_eq⟩, ⟨sneRow, exec_of_skipIf rfl bne_iff_ne⟩⟩

/-- Settles O33: the sum of a 12-bit address and a byte does not wrap in the 16-bit `pc`. -/
theorem jumpAddIsNotReduced : Obligations.JumpAddIsNotReduced := by
  intro s nnn
  have row : InRow (.jpV0 nnn) 0xF000 0xB000 := inRow_of_mem (row := ⟨0xF000, 0xB000, "JP_V0__nnn"⟩) (by decide) rfl
  exact ⟨row, _, exec_jpV0 nnn, addrWord_add_byteWord_toNat nnn (s.reg 0), setPc_keeps s _ (by decide)⟩

end Sys2Proof.Proofs.Control
end

section
/-! SUPPORT. The flags of the ALU instructions as numbers (R120, R127 to R131). -/

namespace Sys2Proof.Proofs.Flags

open Sys2Proof Sys2Proof.Machine

theorem flagByte_decide_toNat (P : Prop) [Decidable P] : (flagByte (decide P)).toNat = if P then 1 else 0 := by
  simp only [flagByte_toNat, decide_eq_true_eq]

theorem flagByte_carry_toNat (a b : Byte) :
    (flagByte (carry a b)).toNat = if a.toNat + b.toNat > 255 then 1 else 0 := flagByte_decide_toNat _

theorem flagByte_noBorrow_toNat (a b : Byte) :
    (flagByte (noBorrow a b)).toNat = if a.toNat ≥ b.toNat then 1 else 0 := flagByte_decide_toNat _

theorem flagByte_lowBit_toNat (b : Byte) : (flagByte (lowBit b)).toNat = b.toNat % 2 := by
  have hbit : lowBit b = decide (b.toNat % 2 = 1) := Nat.testBit_zero b.toNat
  rw [hbit, flagByte_decide_toNat]
  split <;> omega

theorem flagByte_highBit_toNat (b : Byte) : (flagByte (highBit b)).toNat = b.toNat / 128 := by
  have hbit : highBit b = decide (b.toNat / 128 % 2 = 1) := Nat.testBit_eq_decide_div_mod_eq
  rw [hbit, flagByte_decide_toNat]
  split <;> omega

end Sys2Proof.Proofs.Flags
end

section
/-! SUPPORT. The loads, arithmetic, logic, shifts and random (R121 to R132): all end by writing `V[x]` and advancing.
Five of them write the flag first, and of these the subtractions and the shifts read their operands after it (R8, D2). -/

namespace Sys2Proof.Proofs.Alu

open Sys2Proof Sys2Proof.Machine Sys2Proof.Proofs.Encoding Sys2Proof.Proofs.Frames Sys2Proof.Proofs.Flags

/-! ## The common end: `V[x]` written, `pc` advanced -/

section
variable (s : State) (x : Nibble) (b : Byte) {ps : List Piece} {rs : List Nibble} {base len : Nat}

theorem write_reg_self : (s.write x b).reg x = b := State.setReg_reg_self s x b

theorem write_reg_of_ne {r : Nibble} (h : r ≠ x) : (s.write x b).reg r = s.reg r := State.setReg_reg_of_ne s x r b h

theorem write_keeps (hpc : .pc ∈ ps) (hx : x ∈ rs) : Keeps s (s.write x b) ps rs base len :=
  (setReg_keeps s x b hx).trans (advance_keeps _ hpc)

theorem dropRandom_keeps (h : .random ∈ ps) : Keeps s s.dropRandom ps rs base len := by
  refine keeps_of_piece h (fun p hp => ?_) (fun _ => rfl) (fun _ => rfl)
  cases p
  case random => exact absurd rfl hp
  all_goals simp [Piece.Same]

end

section
variable {s : State} {i : Instr} {x : Nibble} {b : Byte}

/-- What an instruction does that only writes `V[x]` and advances; `P` says what is asked of the byte written. -/
theorem exec_of_write (P : Byte → Prop) (hexec : exec i s = .next (s.write x b)) (hP : P b) :
    ∃ t, exec i s = .next t ∧ P (t.reg x) ∧ t.pc = s.pc + 2 ∧ KeepsAllBut s t [.pc] [x] :=
  ⟨_, hexec, (write_reg_self s x b).symm ▸ hP, rfl, write_keeps s x b (by simp) (by simp)⟩

/-- What an instruction does that writes the flag, then `V[x]`, and advances: where `x` is VF the flag is lost. -/
theorem exec_of_setFlag_write {f : Bool} (hexec : exec i s = .next ((s.setFlag f).write x b)) :
    ∃ t, exec i s = .next t ∧ t.reg x = b ∧ (x ≠ VF → t.reg VF = flagByte f) ∧ t.pc = s.pc + 2 ∧
      KeepsAllBut s t [.pc] [x, VF] := by
  have flag : x ≠ VF → ((s.setFlag f).write x b).reg VF = flagByte f := fun h => by
    rw [write_reg_of_ne _ x b h.symm, State.setFlag_reg, if_pos rfl]
  exact ⟨_, hexec, write_reg_self _ x b, flag, rfl,
    (setFlag_keeps s f (by simp)).trans (write_keeps _ x b (by simp) (by simp))⟩

end

/-! ## The arithmetic of bytes -/

/-- The difference modulo 256, in the form of R128 and R130. -/
theorem byte_sub_toNat (a b : Byte) : (a - b).toNat = (a.toNat + 256 - b.toNat) % 256 := by
  rw [BitVec.toNat_sub]
  congr 1
  omega

theorem byte_shiftRight_toNat (b : Byte) : (b >>> 1).toNat = b.toNat / 2 := by
  rw [BitVec.toNat_ushiftRight, Nat.shiftRight_eq_div_pow]

theorem byte_shiftLeft_toNat (b : Byte) : (b <<< 1).toNat = b.toNat * 2 % 256 := by
  rw [BitVec.toNat_shiftLeft, Nat.shiftLeft_eq]

/-! ## The subtractions (R128, R130) -/

/-- What a subtraction does whose minuend is `V[m]` and whose subtrahend is `V[n]`: it reads them after the flag is
written, so whichever of them is VF is the flag (D2). -/
theorem exec_of_setFlag_sub {s : State} {i : Instr} {x : Nibble} (m n : Nibble) {f : Bool} {k : Nat}
    (hexec : exec i s = .next ((s.setFlag f).write x ((s.setFlag f).reg m - (s.setFlag f).reg n)))
    (hk : (flagByte f).toNat = k) :
    ∃ t, exec i s = .next t ∧
      (t.reg x).toNat =
        ((if m = VF then k else (s.reg m).toNat) + 256 - (if n = VF then k else (s.reg n).toNat)) % 256 ∧
      (x ≠ VF → (t.reg VF).toNat = k) ∧ t.pc = s.pc + 2 ∧ KeepsAllBut s t [.pc] [x, VF] := by
  have operand (r : Nibble) : ((s.setFlag f).reg r).toNat = if r = VF then k else (s.reg r).toNat := by
    rw [State.setFlag_reg, apply_ite BitVec.toNat, hk]
  obtain ⟨t, hnext, hx, hVF, hrest⟩ := exec_of_setFlag_write hexec
  refine ⟨t, hnext, ?_, fun h => ?_, hrest⟩
  · rw [hx, byte_sub_toNat, operand, operand]
  · rw [hVF h, hk]

/-! ## random (R132) -/

theorem exec_rnd (s : State) (x : Nibble) (kk : Byte) :
    exec (.rnd x kk) s = .next (s.dropRandom.write x (s.randomByte &&& kk)) := rfl

/-- Settles O34: both are a single `write`. -/
theorem loadsWriteOneRegister : Obligations.LoadsWriteOneRegister := by
  intro s x y kk
  have immRow : InRow (.ldImm x kk) 0xF000 0x6000 :=
    inRow_of_mem (row := ⟨0xF000, 0x6000, "LD_Vx__kk"⟩) (by decide) rfl
  have regRow : InRow (.ldReg x y) 0xF00F 0x8000 :=
    inRow_of_mem (row := ⟨0xF00F, 0x8000, "LD_Vx__Vy"⟩) (by decide) rfl
  exact ⟨⟨immRow, exec_of_write (· = kk) rfl rfl⟩, ⟨regRow, exec_of_write (· = s.reg y) rfl rfl⟩⟩

/-- Settles O35: the sum of two bytes is the sum modulo 256, and it is all that is written. -/
theorem addImmediateWrapsWithoutFlag : Obligations.AddImmediateWrapsWithoutFlag := by
  intro s x kk
  have row : InRow (.addImm x kk) 0xF000 0x7000 :=
    inRow_of_mem (row := ⟨0xF000, 0x7000, "ADD_Vx__kk"⟩) (by decide) rfl
  exact ⟨row, exec_of_write (·.toNat = ((s.reg x).toNat + kk.toNat) % 256) rfl (BitVec.toNat_add _ _)⟩

/-- Settles O36: each writes the byte that the bitwise operation gives, and nothing else. -/
theorem logicCombinesBitsWithoutFlag : Obligations.LogicCombinesBitsWithoutFlag := by
  intro s x y
  have orRow : InRow (.orReg x y) 0xF00F 0x8001 :=
    inRow_of_mem (row := ⟨0xF00F, 0x8001, "OR_Vx__Vy"⟩) (by decide) rfl
  have andRow : InRow (.andReg x y) 0xF00F 0x8002 :=
    inRow_of_mem (row := ⟨0xF00F, 0x8002, "AND_Vx__Vy"⟩) (by decide) rfl
  have xorRow : InRow (.xorReg x y) 0xF00F 0x8003 :=
    inRow_of_mem (row := ⟨0xF00F, 0x8003, "XOR_Vx__Vy"⟩) (by decide) rfl
  refine ⟨⟨orRow, ?_⟩, ⟨andRow, ?_⟩, ⟨xorRow, ?_⟩⟩
  · exact exec_of_write (fun v => ∀ b < 8, v.getLsbD b = ((s.reg x).getLsbD b || (s.reg y).getLsbD b)) rfl
      fun _ _ => BitVec.getLsbD_or
  · exact exec_of_write (fun v => ∀ b < 8, v.getLsbD b = ((s.reg x).getLsbD b && (s.reg y).getLsbD b)) rfl
      fun _ _ => BitVec.getLsbD_and
  · exact exec_of_write (fun v => ∀ b < 8, v.getLsbD b = ((s.reg x).getLsbD b ^^ (s.reg y).getLsbD b)) rfl
      fun _ _ => BitVec.getLsbD_xor

/-- Settles O37: the sum is of the old registers and is written last, so that it stands also where `x` is VF. -/
theorem addRegisterSetsCarry : Obligations.AddRegisterSetsCarry := by
  intro s x y
  have row : InRow (.addReg x y) 0xF00F 0x8004 :=
    inRow_of_mem (row := ⟨0xF00F, 0x8004, "ADD_Vx__Vy"⟩) (by decide) rfl
  obtain ⟨t, hexec, hx, hVF, hrest⟩ :=
    exec_of_setFlag_write (rfl : exec (.addReg x y) s = .next ((s.setFlag (carry (s.reg x) (s.reg y))).write x _))
  refine ⟨row, t, hexec, ?_, fun h => ?_, hrest⟩
  · rw [hx, BitVec.toNat_add]
  · rw [hVF h, flagByte_carry_toNat]

/-- Settles O38: the minuend is `V[x]` and the subtrahend `V[y]`. -/
theorem subtractRegisterSetsNoBorrow : Obligations.SubtractRegisterSetsNoBorrow := by
  intro s x y
  have row : InRow (.subReg x y) 0xF00F 0x8005 :=
    inRow_of_mem (row := ⟨0xF00F, 0x8005, "SUB_Vx__Vy"⟩) (by decide) rfl
  obtain ⟨t, hexec, hx, hVF, hrest⟩ :=
    exec_of_setFlag_sub (i := .subReg x y) (s := s) (x := x) x y rfl (flagByte_noBorrow_toNat _ _)
  refine ⟨row, t, hexec, ⟨fun nx ny => ⟨?_, hVF nx⟩, fun nx ey => ⟨?_, hVF nx⟩, fun ex ny => ?_, fun ex ey => ?_⟩,
    hrest⟩
  · rw [hx, if_neg nx, if_neg ny]
  · rw [hx, if_neg nx, if_pos ey]
  · subst ex
    rw [hx, if_pos rfl, if_neg ny]
  · subst ex
    rw [hx, if_pos rfl, if_pos ey, Nat.add_sub_cancel_left]

/-- Settles O39: half of the flag, which is what VF holds when `x` is 15, is 0. -/
theorem shiftRightHalves : Obligations.ShiftRightHalves := by
  intro s x ign
  have row : InRow (.shr x ign) 0xF00F 0x8006 := inRow_of_mem (row := ⟨0xF00F, 0x8006, "SHR_Vx"⟩) (by decide) rfl
  obtain ⟨t, hexec, hx, hVF, hrest⟩ :=
    exec_of_setFlag_write (rfl : exec (.shr x ign) s = .next ((s.setFlag (lowBit (s.reg x))).write x _))
  refine ⟨row, t, hexec, fun nx => ⟨?_, ?_⟩, fun ex => ?_, hrest⟩
  · rw [hx, State.setFlag_reg, if_neg nx, byte_shiftRight_toNat]
  · rw [hVF nx, flagByte_lowBit_toNat]
  · subst ex
    rw [hx, State.setFlag_reg, if_pos rfl, byte_shiftRight_toNat, flagByte_lowBit_toNat]
    omega

/-- Settles O40: the minuend is `V[y]` and the subtrahend `V[x]`. -/
theorem reverseSubtractSetsNoBorrow : Obligations.ReverseSubtractSetsNoBorrow := by
  intro s x y
  have row : InRow (.subnReg x y) 0xF00F 0x8007 :=
    inRow_of_mem (row := ⟨0xF00F, 0x8007, "SUBN_Vx__Vy"⟩) (by decide) rfl
  obtain ⟨t, hexec, hx, hVF, hrest⟩ :=
    exec_of_setFlag_sub (i := .subnReg x y) (s := s) (x := x) y x rfl (flagByte_noBorrow_toNat _ _)
  refine ⟨row, t, hexec, ⟨fun nx ny => ⟨?_, hVF nx⟩, fun nx ey => ⟨?_, hVF nx⟩, fun ex ny => ?_, fun ex ey => ?_⟩,
    hrest⟩
  · rw [hx, if_neg ny, if_neg nx]
  · rw [hx, if_pos ey, if_neg nx]
  · subst ex
    rw [hx, if_neg ny, if_pos rfl]
  · subst ex
    rw [hx, if_pos ey, if_pos rfl, Nat.add_sub_cancel_left]

/-- Settles O41: twice the flag, which is what VF holds when `x` is 15, is below 256. -/
theorem shiftLeftDoubles : Obligations.ShiftLeftDoubles := by
  intro s x ign
  have row : InRow (.shl x ign) 0xF00F 0x800E := inRow_of_mem (row := ⟨0xF00F, 0x800E, "SHL_Vx"⟩) (by decide) rfl
  obtain ⟨t, hexec, hx, hVF, hrest⟩ :=
    exec_of_setFlag_write (rfl : exec (.shl x ign) s = .next ((s.setFlag (highBit (s.reg x))).write x _))
  refine ⟨row, t, hexec, fun nx => ⟨?_, ?_⟩, fun ex => ?_, hrest⟩
  · rw [hx, State.setFlag_reg, if_neg nx, byte_shiftLeft_toNat]
  · rw [hVF nx, flagByte_highBit_toNat]
  · subst ex
    rw [hx, State.setFlag_reg, if_pos rfl, byte_shiftLeft_toNat, flagByte_highBit_toNat]
    omega

/-- Settles O42: the draw is the head of the supplied ones, the AND clears what `kk` clears. -/
theorem randomMasksAFreshDraw : Obligations.RandomMasksAFreshDraw := by
  intro s x kk
  have row : InRow (.rnd x kk) 0xF000 0xC000 :=
    inRow_of_mem (row := ⟨0xF000, 0xC000, "RND_Vx__kk"⟩) (by decide) rfl
  have masked : ∀ b < 8, kk.getLsbD b = false → (s.randomByte &&& kk).getLsbD b = false := fun b _ h => by
    rw [BitVec.getLsbD_and, h, Bool.and_false]
  have written (u : State) : (u.dropRandom.write x (u.randomByte &&& kk)).reg x = u.randomByte &&& kk :=
    write_reg_self _ x _
  have frame : KeepsAllBut s (s.dropRandom.write x (s.randomByte &&& kk)) [.pc, .random] [x] :=
    (dropRandom_keeps s (by decide)).trans (write_keeps _ x _ (by decide) (by simp))
  exact ⟨row, ⟨_, exec_rnd s x kk, written s, (written s).symm ▸ masked, rfl, rfl, rfl, frame⟩,
    fun r => ⟨_, exec_rnd _ x kk, written _⟩⟩

end Sys2Proof.Proofs.Alu
end

section
/-! SUPPORT. The instructions that write I (R140 to R142) and the range-checked ones that go through it to memory
(R143 to R145). -/

namespace Sys2Proof.Proofs.IndexMemory

open Sys2Proof Sys2Proof.Machine Sys2Proof.Proofs.Encoding Sys2Proof.Proofs.Frames

section
variable (s : State) {ps : List Piece} {rs : List Nibble} {base len : Nat}

/-! ## The instructions that write I (R140 to R142) -/

theorem setI_keeps (w : Word) (h : .i ∈ ps) : Keeps s (s.setI w) ps rs base len := by
  refine keeps_of_piece h (fun p hp => ?_) (fun _ => rfl) (fun _ => rfl)
  cases p
  case i => exact absurd rfl hp
  all_goals simp [Piece.Same]

variable {s} in
/-- What an instruction does that only writes `I` and advances: the three differ only in the value. -/
theorem exec_of_setI {i : Instr} {w : Word} {n : Nat} (hexec : exec i s = .next (s.setI w).advance)
    (hw : w.toNat = n) :
    ∃ t, exec i s = .next t ∧ t.i.toNat = n ∧ t.pc = s.pc + 2 ∧ KeepsAllBut s t [.i, .pc] [] :=
  ⟨_, hexec, hw, rfl, (setI_keeps s w (by decide)).trans (advance_keeps _ (by decide))⟩

/-- A byte added to `I`, modulo 2^16 (D11). -/
theorem add_byteWord_toNat (w : Word) (b : Byte) : (w + byteWord b).toNat = (w.toNat + b.toNat) % 65536 := by
  rw [BitVec.toNat_add, byteWord_toNat]

/-! ## The stores (R143, R144): bytes written from `I` up, then the advance -/

/-- What a store does once its addresses are known to exist. -/
def stored (s : State) (bs : List Byte) : State := (s.setMem (s.mem.setBytes s.i.toNat bs)).advance

theorem exec_ldB (x : Nibble) :
    exec (.ldB x) s = withRange (.ldB x) .write s.i.toNat 3 s (stored s (bcd (s.reg x))) := rfl

theorem exec_stRegs (x : Nibble) :
    exec (.stRegs x) s = withRange (.stRegs x) .write s.i.toNat (x.toNat + 1) s (stored s (s.regsUpTo x)) := rfl

section
variable {s} {bs : List Byte} (hwf : s.mem.wf = true) (hin : InRange s.i.toNat bs.length)
include hwf hin

theorem stored_peek (a : Nat) :
    (stored s bs).peek a =
      if s.i.toNat ≤ a ∧ a < s.i.toNat + bs.length then bs.getD (a - s.i.toNat) 0 else s.peek a :=
  State.setBytes_peek hwf s.i.toNat bs ((inRange_iff.1 hin).imp_left List.length_eq_zero_iff.1) a

theorem stored_peek_inside {j : Nat} (hj : j < bs.length) : (stored s bs).peek (s.i.toNat + j) = bs.getD j 0 := by
  rw [stored_peek hwf hin, if_pos (by omega), Nat.add_sub_cancel_left]

theorem stored_peek_outside {a : Nat} (ha : a < s.i.toNat ∨ s.i.toNat + bs.length ≤ a) :
    (stored s bs).peek a = s.peek a := by
  rw [stored_peek hwf hin, if_neg (by omega)]

theorem stored_keeps (hpc : .pc ∈ ps) : Keeps s (stored s bs) ps rs s.i.toNat bs.length := by
  refine ⟨fun p hp => ?_, fun _ _ => rfl, fun _ => stored_peek_outside hwf hin⟩
  cases p
  case pc => exact absurd hpc hp
  all_goals simp [Piece.Same, stored]

end

variable {s} in
/-- What a store of the `n` bytes `bs` does where its addresses exist: `I` stays (D3). -/
theorem exec_of_stored {i : Instr} {bs : List Byte} {n : Nat}
    (hexec : exec i s = withRange i .write s.i.toNat n s (stored s bs)) (hlen : bs.length = n)
    (hin : InRange s.i.toNat n) (hwf : s.mem.wf = true) :
    ∃ t, exec i s = .next t ∧ (∀ j < n, t.peek (s.i.toNat + j) = bs.getD j 0) ∧ t.pc = s.pc + 2 ∧
      Keeps s t [.pc] [] s.i.toNat n := by
  subst hlen
  exact ⟨_, hexec.trans (withRange_of_inRange hin), fun _ => stored_peek_inside hwf hin, rfl,
    stored_keeps hwf hin (by decide)⟩

/-- A register up to `x` is the byte of its own number among those stored (R144). -/
theorem regsUpTo_getD_toNat {x r : Nibble} (h : r.toNat ≤ x.toNat) : (s.regsUpTo x).getD r.toNat 0 = s.reg r := by
  rw [State.regsUpTo_getD s x r.toNat h, BitVec.ofNat_toNat, BitVec.setWidth_eq]

/-! ## The digits of a byte (R143) -/

/-- The three decimal digits fit their bytes. -/
theorem bcd_toNat (b : Byte) :
    ((bcd b).getD 0 0).toNat = b.toNat / 100 ∧ ((bcd b).getD 1 0).toNat = b.toNat / 10 % 10 ∧
      ((bcd b).getD 2 0).toNat = b.toNat % 10 := by
  have fits {n : Nat} (h : n < 256) : (BitVec.ofNat 8 n).toNat = n :=
    (BitVec.toNat_ofNat n 8).trans (Nat.mod_eq_of_lt h)
  exact ⟨fits (by omega), fits (by omega), fits (by omega)⟩

/-! ## The load (R145): registers read from `I` up, then the advance -/

/-- What load-regs does once its addresses are known to exist. -/
def loaded (s : State) (x : Nibble) : State := (s.setRegs (s.regsFrom s.i.toNat x)).advance

theorem exec_ldRegs (x : Nibble) :
    exec (.ldRegs x) s = withRange (.ldRegs x) .read s.i.toNat (x.toNat + 1) s (loaded s x) := rfl

theorem loaded_reg (x r : Nibble) :
    (loaded s x).reg r = if r.toNat ≤ x.toNat then s.peek (s.i.toNat + r.toNat) else s.reg r :=
  State.regsFrom_reg s s.i.toNat x r

theorem loaded_reg_of_le {x r : Nibble} (h : r.toNat ≤ x.toNat) :
    (loaded s x).reg r = s.peek (s.i.toNat + r.toNat) := by rw [loaded_reg, if_pos h]

theorem loaded_reg_of_lt {x r : Nibble} (h : x.toNat < r.toNat) : (loaded s x).reg r = s.reg r := by
  rw [loaded_reg, if_neg (Nat.not_le.2 h)]

theorem mem_destRegs_ldRegs {x r : Nibble} (h : r.toNat ≤ x.toNat) : r ∈ (Instr.ldRegs x).destRegs :=
  List.mem_map.2 ⟨r.toNat, List.mem_range.2 (Nat.lt_succ_of_le h), by rw [BitVec.ofNat_toNat, BitVec.setWidth_eq]⟩

theorem loaded_keeps (x : Nibble) (hpc : .pc ∈ ps) : Keeps s (loaded s x) ps (Instr.ldRegs x).destRegs base len := by
  refine ⟨fun p hp => ?_, fun r hr => ?_, fun _ _ => rfl⟩
  · cases p
    case pc => exact absurd hpc hp
    all_goals simp [Piece.Same, loaded]
  · exact loaded_reg_of_lt s (Nat.lt_of_not_le fun h => hr (mem_destRegs_ldRegs h))

end

/-- Settles O43: the 12-bit address fits `I`. -/
theorem loadAddressSetsI : Obligations.LoadAddressSetsI := by
  intro s nnn
  have row : InRow (.ldI nnn) 0xF000 0xA000 := inRow_of_mem (row := ⟨0xF000, 0xA000, "LD_I__nnn"⟩) (by decide) rfl
  exact ⟨row, exec_of_setI rfl (addrWord_toNat nnn)⟩

/-- Settles O44: the sum is that of 16-bit words, and it is all that is written. -/
theorem addToAddressWrapsWithoutFlag : Obligations.AddToAddressWrapsWithoutFlag := by
  intro s x
  have row : InRow (.addI x) 0xF0FF 0xF01E := inRow_of_mem (row := ⟨0xF0FF, 0xF01E, "ADD_I__Vx"⟩) (by decide) rfl
  exact ⟨row, exec_of_setI rfl (add_byteWord_toNat s.i (s.reg x))⟩

/-- Settles O45: five times a byte fits `I`, so the digit needs no mask. -/
theorem fontAddressIsFiveTimesTheDigit : Obligations.FontAddressIsFiveTimesTheDigit := by
  intro s x
  have row : InRow (.ldF x) 0xF0FF 0xF029 := inRow_of_mem (row := ⟨0xF0FF, 0xF029, "LD_F__Vx"⟩) (by decide) rfl
  exact ⟨row, exec_of_setI rfl (glyphAddr_toNat (s.reg x))⟩

/-- Settles O46: the range check decides between the fault and the store of the three digits. -/
theorem storeBcdWritesThreeDigits : Obligations.StoreBcdWritesThreeDigits := by
  intro s x
  have row : InRow (.ldB x) 0xF0FF 0xF033 := inRow_of_mem (row := ⟨0xF0FF, 0xF033, "LD_B__Vx"⟩) (by decide) rfl
  refine ⟨row, fun a ha => (exec_ldB s x).trans (withRange_of_lowestBeyond ha), fun hin hwf => ?_⟩
  obtain ⟨t, hexec, bytes, hrest⟩ := exec_of_stored (exec_ldB s x) (bcd_length (s.reg x)) hin hwf
  obtain ⟨hundreds, tens, ones⟩ := bcd_toNat (s.reg x)
  refine ⟨t, hexec, ?_, ?_, ?_, hrest⟩
  · rw [← hundreds, ← bytes 0 (by decide), Nat.add_zero]
  · rw [← tens, ← bytes 1 (by decide)]
  · rw [← ones, ← bytes 2 (by decide)]

/-- Settles O47: the range check decides between the fault and the store of the registers in their order. -/
theorem storeRegistersWritesTheRange : Obligations.StoreRegistersWritesTheRange := by
  intro s x
  have row : InRow (.stRegs x) 0xF0FF 0xF055 :=
    inRow_of_mem (row := ⟨0xF0FF, 0xF055, "LD__I___Vx"⟩) (by decide) rfl
  refine ⟨row, fun a ha => (exec_stRegs s x).trans (withRange_of_lowestBeyond ha), fun hin hwf => ?_⟩
  obtain ⟨t, hexec, bytes, hrest⟩ := exec_of_stored (exec_stRegs s x) (State.regsUpTo_length s x) hin hwf
  refine ⟨t, hexec, fun r hr => ?_, hrest⟩
  rw [bytes r.toNat (Nat.lt_succ_of_le hr), regsUpTo_getD_toNat s hr]

/-- Settles O48: the range check decides between the fault and the load, which writes the registers up to `x`. -/
theorem loadRegistersReadsTheRange : Obligations.LoadRegistersReadsTheRange := by
  intro s x
  have row : InRow (.ldRegs x) 0xF0FF 0xF065 :=
    inRow_of_mem (row := ⟨0xF0FF, 0xF065, "LD_Vx___I"⟩) (by decide) rfl
  refine ⟨row, fun a ha => (exec_ldRegs s x).trans (withRange_of_lowestBeyond ha), fun hin => ?_⟩
  exact ⟨loaded s x, (exec_ldRegs s x).trans (withRange_of_inRange hin), fun _ => loaded_reg_of_le s,
    fun _ => loaded_reg_of_lt s, rfl, loaded_keeps s x (by decide)⟩

end Sys2Proof.Proofs.IndexMemory
end

section
/-! SUPPORT. The frames of the updates of the timers, the keypad, the run state and the schedule (R9). -/

namespace Sys2Proof.Proofs.Frames

open Sys2Proof Sys2Proof.Machine

section
variable (s : State) {ps : List Piece} {rs : List Nibble} {base len : Nat}

theorem setDt_keeps (b : Byte) (h : .dt ∈ ps) : Keeps s (s.setDt b) ps rs base len :=
  keeps_of_piece h (fun p hp => by cases p <;> simp [Piece.Same] at hp ⊢) (fun _ => rfl) (fun _ => rfl)

theorem setSt_keeps (b : Byte) (h : .st ∈ ps) : Keeps s (s.setSt b) ps rs base len :=
  keeps_of_piece h (fun p hp => by cases p <;> simp [Piece.Same] at hp ⊢) (fun _ => rfl) (fun _ => rfl)

theorem setKey_keeps (k : Nibble) (b : Bool) (h : .keys ∈ ps) : Keeps s (s.setKey k b) ps rs base len :=
  keeps_of_piece h (fun p hp => by cases p <;> simp [Piece.Same] at hp ⊢) (fun _ => rfl) (fun _ => rfl)

theorem setRun_keeps (q : RunState) (h : .run ∈ ps) : Keeps s (s.setRun q) ps rs base len :=
  keeps_of_piece h (fun p hp => by cases p <;> simp [Piece.Same] at hp ⊢) (fun _ => rfl) (fun _ => rfl)

theorem setSchedule_keeps (ts : List Turn) (h : .schedule ∈ ps) : Keeps s (s.setSchedule ts) ps rs base len :=
  keeps_of_piece h (fun p hp => by cases p <;> simp [Piece.Same] at hp ⊢) (fun _ => rfl) (fun _ => rfl)

end

end Sys2Proof.Proofs.Frames
end

section
/-! SUPPORT. The key skips, the entry to the key wait and the timer moves (R160 to R163, R165, R166), and the input
port's step, which may complete a wait (R164, R209, R210). -/

namespace Sys2Proof.Proofs.TimersKeys

open Sys2Proof Sys2Proof.Machine Sys2Proof.Proofs.Encoding Sys2Proof.Proofs.Frames
  Sys2Proof.Proofs.Control Sys2Proof.Proofs.Alu

section
variable {s : State} {x k : Nibble}

/-! ## The key skips, by whether `V[x]` names a key (R160, R161) -/

theorem keyNumber_eq_some {b : Byte} (h : b.toNat = k.toNat) : keyNumber b = some k := by
  have named : b.setWidth 4 = k := BitVec.eq_of_toNat_eq (by rw [BitVec.toNat_setWidth, h, Nat.mod_eq_of_lt k.isLt])
  rw [keyNumber_of_lt (h ▸ k.isLt), named]

theorem exec_skp_of_key (h : (s.reg x).toNat = k.toNat) : exec (.skp x) s = .next (s.skipIf (s.keyDown k)) := by
  simp only [exec, execSkp, keyNumber_eq_some h]

theorem exec_sknp_of_key (h : (s.reg x).toNat = k.toNat) : exec (.sknp x) s = .next (s.skipIf (!s.keyDown k)) := by
  simp only [exec, execSknp, keyNumber_eq_some h]

theorem exec_skp_of_no_key (h : 16 ≤ (s.reg x).toNat) : FaultsWith (.skp x) s (.keyOutOfRange (s.reg x)) := by
  simp only [FaultsWith, exec, execSkp, keyNumber_of_ge h, raise_eq]

theorem exec_sknp_of_no_key (h : 16 ≤ (s.reg x).toNat) : FaultsWith (.sknp x) s (.keyOutOfRange (s.reg x)) := by
  simp only [FaultsWith, exec, execSknp, keyNumber_of_ge h, raise_eq]

/-! ## The timer moves and the entry to the key wait (R162, R163, R165, R166) -/

theorem exec_ldVxDT : exec (.ldVxDT x) s = .next (s.write x s.dt) := rfl

theorem exec_ldVxK : exec (.ldVxK x) s = .next (s.setRun (.waitKey x)) := rfl

theorem exec_ldDTVx : exec (.ldDTVx x) s = .next (s.setDt (s.reg x)).advance := rfl

theorem exec_ldSTVx : exec (.ldSTVx x) s = .next (s.setSt (s.reg x)).advance := rfl

theorem soundActive_iff : s.soundActive = true ↔ s.st ≠ 0 := bne_iff_ne

/-! ## The input port's step (R164, R209, R210) -/

theorem step_of_keyChange {b : Bool} {ts : List Turn} (h : s.schedule = .keyChange k b :: ts) :
    step s = .next (keyChange k b (s.setSchedule ts)) := by
  simp only [step, h, takeTurn]

theorem completeWait_reg_toNat : ((completeWait x k s).reg x).toNat = k.toNat := by
  have number : (completeWait x k s).reg x = k.setWidth 8 := State.setReg_reg_self s x _
  rw [number, BitVec.toNat_setWidth_of_le (by decide)]

theorem completeWait_keeps {ps : List Piece} {rs : List Nibble} {base len : Nat} (hpc : .pc ∈ ps) (hrun : .run ∈ ps)
    (hx : x ∈ rs) : Keeps s (completeWait x k s) ps rs base len :=
  ((setReg_keeps s x _ hx).trans (advance_keeps _ hpc)).trans (setRun_keeps _ _ hrun)

end

/-- Settles O10: the step completes the wait exactly under the three conditions of KeyPress, and else writes the key
alone. -/
theorem keyPressCompletesAWait : Obligations.KeyPressCompletesAWait := by
  intro s k b ts hturn
  refine ⟨_, step_of_keyChange hturn, ?_⟩
  rcases keyChange_cases k b (s.setSchedule ts) with ⟨x, hrun, rfl, hup, hcomplete⟩ | ⟨hno, honly⟩
  case inl =>
    rw [hcomplete]
    refine ⟨rfl, State.setKey_keyDown _ k true, fun x' hrun' _ _ => ?_, fun hnot => absurd ⟨x, hrun, rfl, hup⟩ hnot⟩
    obtain rfl : x = x' := RunState.waitKey.inj (hrun.symm.trans hrun')
    exact ⟨completeWait_reg_toNat, rfl, rfl,
      ((setSchedule_keeps s ts (by decide)).trans (setKey_keeps _ k true (by decide))).trans
        (completeWait_keeps (by decide) (by decide) (by simp))⟩
  case inr =>
    rw [honly]
    refine ⟨rfl, State.setKey_keyDown _ k b, fun x hrun hb hup => ?_, fun _ => ?_⟩
    · exact absurd (hup.symm.trans (hno x hrun hb)) (by decide)
    · exact (setSchedule_keeps s ts (by decide)).trans (setKey_keeps _ k b (by decide))

/-- Settles O50: `V[x]` names a key exactly when it is below 16, and with a key both are `skipIf` on its level. -/
theorem keySkipsPollTheKey : Obligations.KeySkipsPollTheKey := by
  intro s x
  have skpRow : InRow (.skp x) 0xF0FF 0xE09E := inRow_of_mem (row := ⟨0xF0FF, 0xE09E, "SKP_Vx"⟩) (by decide) rfl
  have sknpRow : InRow (.sknp x) 0xF0FF 0xE0A1 := inRow_of_mem (row := ⟨0xF0FF, 0xE0A1, "SKNP_Vx"⟩) (by decide) rfl
  refine ⟨skpRow, sknpRow, fun h => ⟨exec_skp_of_no_key h, exec_sknp_of_no_key h⟩, fun k h => ⟨?_, ?_⟩⟩
  · exact exec_of_skipIf (exec_skp_of_key h) Iff.rfl
  · exact exec_of_skipIf (exec_sknp_of_key h) (by rw [Bool.not_eq_true'])

/-- Settles O51: each is one write and the advance, and the sound output reads the timer written. -/
theorem timerMovesCopyAByte : Obligations.TimerMovesCopyAByte := by
  intro s x
  have readRow : InRow (.ldVxDT x) 0xF0FF 0xF007 :=
    inRow_of_mem (row := ⟨0xF0FF, 0xF007, "LD_Vx__DT"⟩) (by decide) rfl
  have delayRow : InRow (.ldDTVx x) 0xF0FF 0xF015 :=
    inRow_of_mem (row := ⟨0xF0FF, 0xF015, "LD_DT__Vx"⟩) (by decide) rfl
  have soundRow : InRow (.ldSTVx x) 0xF0FF 0xF018 :=
    inRow_of_mem (row := ⟨0xF0FF, 0xF018, "LD_ST__Vx"⟩) (by decide) rfl
  refine ⟨⟨readRow, ?_⟩, ⟨delayRow, ?_⟩, ⟨soundRow, ?_⟩⟩
  · exact exec_of_write (· = s.dt) exec_ldVxDT rfl
  · exact ⟨_, exec_ldDTVx, rfl, rfl, (setDt_keeps s _ (by decide)).trans (advance_keeps _ (by decide))⟩
  · exact ⟨_, exec_ldSTVx, rfl, soundActive_iff, rfl,
      (setSt_keeps s _ (by decide)).trans (advance_keeps _ (by decide))⟩

/-- Settles O52: the entry writes `run` and does not look at the keypad. -/
theorem keyWaitSuspendsTheEngine : Obligations.KeyWaitSuspendsTheEngine := by
  intro s x
  have row : InRow (.ldVxK x) 0xF0FF 0xF00A := inRow_of_mem (row := ⟨0xF0FF, 0xF00A, "LD_Vx__K"⟩) (by decide) rfl
  exact ⟨row, _, exec_ldVxK, rfl, setRun_keeps s _ (by decide)⟩

end Sys2Proof.Proofs.TimersKeys
end

section
/-! SUPPORT. Faults and events: an instruction that meets the condition of one of its faults leaves the fault alone
(R201, R202), and only clear-screen and draw repaint (R207). The sound output (R211). -/

namespace Sys2Proof.Proofs.Exceptions

open Sys2Proof Sys2Proof.Machine Sys2Proof.Proofs.Step Sys2Proof.Proofs.Display Sys2Proof.Proofs.Control
  Sys2Proof.Proofs.IndexMemory Sys2Proof.Proofs.TimersKeys

/-! ## The fault of a range of accesses (R56) -/

theorem rangeFault_eq_none_iff {access : Access} {base count : Nat} :
    rangeFault access base count = none ↔ InRange base count := by
  rw [inRange_iff, rangeFault]
  by_cases h : count = 0 ∨ base + count ≤ Config.memSize
  · rw [if_pos h]; exact iff_of_true rfl h
  · rw [if_neg h]; exact iff_of_false (fun hnone => nomatch hnone) h

theorem lowestBeyond_of_rangeFault {access : Access} {base count : Nat} {info : FaultInfo}
    (h : rangeFault access base count = some info) :
    LowestBeyond base count (max base Config.memSize) ∧ .memOutOfBounds (max base Config.memSize) access = info := by
  obtain ⟨hbeyond, hinfo⟩ := Option.ite_none_left_eq_some.1 h
  exact ⟨lowestBeyond_iff.2 ⟨by omega, by omega, rfl⟩, Option.some.inj hinfo⟩

section
variable {s : State} {i : Instr} {info : FaultInfo}

theorem faultsWith_of_rangeFault {access : Access} {base count : Nat} {body : State}
    (hexec : exec i s = withRange i access base count s body) (h : rangeFault access base count = some info) :
    FaultsWith i s info := by
  obtain ⟨hlowest, rfl⟩ := lowestBeyond_of_rangeFault h
  exact hexec.trans (withRange_of_lowestBeyond hlowest)

theorem exec_of_rangeFault_eq_none {access : Access} {base count : Nat} {body : State}
    (hexec : exec i s = withRange i access base count s body) (h : rangeFault access base count = none) :
    exec i s = .next body :=
  hexec.trans (withRange_of_inRange (rangeFault_eq_none_iff.1 h))

/-! ## An instruction that meets a fault condition (R201, R202) -/

/-- The stack, the keys and the ranges of memory: no other instruction has a fault condition. -/
theorem faultsWith_of_faultIn (h : i.faultIn s = some info) : FaultsWith i s info := by
  cases i with
  | ret ign =>
    obtain ⟨hempty, rfl⟩ := Option.ite_some_none_eq_some.1 h
    exact exec_ret_of_no_frame ign (Fin.ext hempty)
  | call nnn =>
    obtain ⟨hfull, rfl⟩ := Option.ite_some_none_eq_some.1 h
    exact exec_call_of_full nnn (Fin.ext hfull)
  | skp x =>
    obtain ⟨hbeyond, rfl⟩ := Option.ite_some_none_eq_some.1 h
    exact exec_skp_of_no_key hbeyond
  | sknp x =>
    obtain ⟨hbeyond, rfl⟩ := Option.ite_some_none_eq_some.1 h
    exact exec_sknp_of_no_key hbeyond
  | drw x y n => exact faultsWith_of_rangeFault (exec_drw s x y n) h
  | ldB x => exact faultsWith_of_rangeFault (exec_ldB s x) h
  | stRegs x => exact faultsWith_of_rangeFault (exec_stRegs s x) h
  | ldRegs x => exact faultsWith_of_rangeFault (exec_ldRegs s x) h
  | _ => cases h

/-! ## An instruction that meets none: what it emits (R207) -/

/-- The two instructions that write the framebuffer, and repaint it. -/
def Repaints (i : Instr) : Prop := (∃ ign, i = .cls ign) ∨ ∃ x y n, i = .drw x y n

theorem exec_outputs_of_repaints (hi : Repaints i) (h : i.faultIn s = none) :
    ∃ t, exec i s = .next t ∧ t.outputs = .repaint t.fb :: s.outputs := by
  obtain ⟨ign, rfl⟩ | ⟨x, y, n, rfl⟩ := hi
  · exact ⟨_, exec_cls s ign, repainted_outputs s _⟩
  · exact ⟨_, exec_of_rangeFault_eq_none (exec_drw s x y n) h, draw_outputs s x y n⟩

theorem not_of_ite_eq_none {α : Type} {p : Prop} [Decidable p] {a : α} (h : (if p then some a else none) = none) :
    ¬p := fun hp => nomatch ite_eq_right_iff.1 h hp

/-- A byte below 16 names the key of its low nibble. -/
theorem toNat_eq_setWidth_toNat {b : Byte} (h : ¬16 ≤ b.toNat) : b.toNat = (b.setWidth 4).toNat := by
  rw [BitVec.toNat_setWidth, Nat.mod_eq_of_lt (Nat.lt_of_not_le h)]

/-- Every other instruction emits nothing, whichever of its pieces it writes. -/
theorem exec_outputs_of_not_repaints (hi : ¬Repaints i) (h : i.faultIn s = none) :
    ∃ t, exec i s = .next t ∧ t.outputs = s.outputs := by
  cases i with
  | cls ign => exact absurd (.inl ⟨ign, rfl⟩) hi
  | drw x y n => exact absurd (.inr ⟨x, y, n, rfl⟩) hi
  | ret ign =>
    have hused : ¬s.sp.val = 0 := not_of_ite_eq_none h
    exact ⟨_, exec_ret_of_frame ign (k := ⟨s.sp.val - 1, by omega⟩) (by dsimp only; omega), rfl⟩
  | call nnn =>
    have hroom : ¬s.sp.val = 16 := not_of_ite_eq_none h
    exact ⟨_, exec_call_of_room nnn (k := ⟨s.sp.val, by omega⟩) rfl, rfl⟩
  | skp x =>
    have hkey : ¬16 ≤ (s.reg x).toNat := not_of_ite_eq_none h
    exact ⟨_, exec_skp_of_key (toNat_eq_setWidth_toNat hkey), rfl⟩
  | sknp x =>
    have hkey : ¬16 ≤ (s.reg x).toNat := not_of_ite_eq_none h
    exact ⟨_, exec_sknp_of_key (toNat_eq_setWidth_toNat hkey), rfl⟩
  | ldB x => exact ⟨_, exec_of_rangeFault_eq_none (exec_ldB s x) h, rfl⟩
  | stRegs x => exact ⟨_, exec_of_rangeFault_eq_none (exec_stRegs s x) h, rfl⟩
  | ldRegs x => exact ⟨_, exec_of_rangeFault_eq_none (exec_ldRegs s x) h, rfl⟩
  | _ => exact ⟨_, rfl, rfl⟩

end

/-- Settles O53: each fault condition leads to `raise`, and the fetch fault is the running engine's step. -/
theorem faultsArePrecise : Obligations.FaultsArePrecise := by
  refine ⟨fun i s info => faultsWith_of_faultIn, fun s hrun hnil hpc => ?_⟩
  have engine : step s = instructionStep s := by
    rw [step_of_engine hrun (.inl ⟨hnil, rfl⟩), State.setSchedule_self s [] hnil]
  exact engine.trans (instructionStep_of_beyond hpc)

/-- Settles O56: an instruction takes its fault and emits the report alone, or it has none, and then repaints or emits
nothing. -/
theorem onlyClearAndDrawRepaint : Obligations.OnlyClearAndDrawRepaint := by
  intro i s
  cases hfault : i.faultIn s with
  | some info =>
    refine ⟨_, faultsWith_of_faultIn hfault, fun info' hinfo => ?_, fun hnone => nomatch hnone⟩
    obtain rfl : info = info' := Option.some.inj hinfo
    rfl
  | none =>
    by_cases hi : Repaints i
    case pos =>
      obtain ⟨t, hexec, hout⟩ := exec_outputs_of_repaints hi hfault
      refine ⟨t, hexec, fun _ hsome => (nomatch hsome), fun _ => ⟨fun _ => hout, fun hcls hdrw => ?_⟩⟩
      obtain ⟨ign, rfl⟩ | ⟨x, y, n, rfl⟩ := hi
      · exact absurd rfl (hcls ign)
      · exact absurd rfl (hdrw x y n)
    case neg =>
      obtain ⟨t, hexec, hout⟩ := exec_outputs_of_not_repaints hi hfault
      exact ⟨t, hexec, fun _ hsome => (nomatch hsome), fun _ => ⟨fun hrep => absurd hrep hi, fun _ _ => hout⟩⟩

/-- Settles O13: a byte differs from 0 exactly when its number does, and the host observes the output itself. -/
theorem soundActiveFollowsTheSoundTimer : Obligations.SoundActiveFollowsTheSoundTimer := by
  intro s
  have zero_iff : s.st = 0 ↔ s.st.toNat = 0 := BitVec.toNat_eq
  exact ⟨soundActive_iff.trans (not_congr zero_iff), rfl⟩

end Sys2Proof.Proofs.Exceptions
end

section
/-! SUPPORT. What an instruction does where it meets no fault condition: it completes, and keeps what its row of the
access matrix does not write (R9, R35); it reads neither its ignored field (R83) nor the sound timer (R27). -/

namespace Sys2Proof.Proofs.Completion

open Sys2Proof Sys2Proof.Machine Sys2Proof.Proofs.Frames Sys2Proof.Proofs.Display Sys2Proof.Proofs.Control
  Sys2Proof.Proofs.Alu Sys2Proof.Proofs.IndexMemory Sys2Proof.Proofs.TimersKeys Sys2Proof.Proofs.Exceptions

/-- The state an instruction leaves where it meets no fault condition: of the eight that may fault, what they do after
their check; of every other, what `exec` says. -/
def completed : Instr → State → State
  | .ret _, s => (s.setFrames s.stack ⟨s.sp.val - 1, by omega⟩).setPc (s.stack[s.sp.val - 1]'(by omega))
  | .call nnn, s => (s.setFrames (s.stack.setIfInBounds s.sp.val (s.pc + 2)) (s.sp + 1)).setPc (addrWord nnn)
  | .skp x, s => s.skipIf (s.keyDown ((s.reg x).setWidth 4))
  | .sknp x, s => s.skipIf (!s.keyDown ((s.reg x).setWidth 4))
  | .drw x y n, s => s.draw x y n
  | .ldB x, s => stored s (bcd (s.reg x))
  | .stRegs x, s => stored s (s.regsUpTo x)
  | .ldRegs x, s => loaded s x
  | i, s =>
    match exec i s with
    | .next t => t
    | .fault _ => s
    | .refused _ => s

section
variable {i : Instr} {s : State}

/-- Past its check, each of the eight does what `completed` says. -/
theorem exec_of_faultIn_eq_none (h : i.faultIn s = none) : exec i s = .next (completed i s) := by
  cases i with
  | ret ign =>
    have hused : ¬s.sp.val = 0 := not_of_ite_eq_none h
    exact dif_neg hused
  | call nnn =>
    have hfull : ¬s.sp.val = 16 := not_of_ite_eq_none h
    have hroom : s.sp.val < 16 := by omega
    have pushed : s.stack.setIfInBounds s.sp.val (s.pc + 2) = s.stack.set s.sp.val (s.pc + 2) := by
      ext k hk
      rw [Vector.getElem_setIfInBounds hk, Vector.getElem_set hroom hk]
    have counted : s.sp + 1 = Fin.succ ⟨s.sp.val, hroom⟩ :=
      Fin.ext ((Fin.val_add s.sp 1).trans (Nat.mod_eq_of_lt (Nat.succ_lt_succ hroom)))
    rw [completed, pushed, counted]
    exact exec_call_of_room nnn (k := ⟨s.sp.val, hroom⟩) rfl
  | skp x => exact exec_skp_of_key (toNat_eq_setWidth_toNat (not_of_ite_eq_none h))
  | sknp x => exact exec_sknp_of_key (toNat_eq_setWidth_toNat (not_of_ite_eq_none h))
  | drw x y n => exact exec_of_rangeFault_eq_none (exec_drw s x y n) h
  | ldB x => exact exec_of_rangeFault_eq_none (exec_ldB s x) h
  | stRegs x => exact exec_of_rangeFault_eq_none (exec_stRegs s x) h
  | ldRegs x => exact exec_of_rangeFault_eq_none (exec_ldRegs s x) h
  | _ => rfl

/-! ## The frame of an instruction (R35) -/

/-- Where the addresses of a store exist, its frame leaves out its own bytes alone. -/
theorem stored_keeps_of_length {bs : List Byte} {n : Nat} (hwf : s.mem.wf = true) (hlen : bs.length = n)
    (h : rangeFault .write s.i.toNat n = none) : Keeps s (stored s bs) [.pc] [] s.i.toNat n := by
  subst hlen
  exact stored_keeps hwf (rangeFault_eq_none_iff.1 h) (by decide)

/-- Row by row of the access matrix; the instructions are grouped by the updates they are made of. -/
theorem completed_keeps (hwf : s.mem.wf = true) (h : i.faultIn s = none) :
    Keeps s (completed i s) i.destPieces i.destRegs s.i.toNat i.storeLen := by
  cases i with
  | cls => exact ((repainted_keeps s _ []).widen _ _).mono (by simp [Instr.destPieces]) (by simp)
  | drw x y n =>
    exact ((draw_keeps s x y n).widen _ _).mono (by simp [Instr.destPieces]) (by simp [Instr.destRegs])
  | ret | call => exact (setFrames_keeps s _ _ (.tail _ (.head _))).trans (setPc_keeps _ _ (.head _))
  | jp | jpV0 | seImm | sneImm | seReg | sneReg | skp | sknp => exact setPc_keeps s _ (.head _)
  | ldImm x | addImm x | ldReg x | orReg x | andReg x | xorReg x | ldVxDT x =>
    exact write_keeps s x _ (.head _) (.head _)
  | addReg x | subReg x | shr x | subnReg x | shl x =>
    exact (setFlag_keeps s _ (.tail _ (.head _))).trans (write_keeps _ x _ (.head _) (.head _))
  | rnd x kk => exact (dropRandom_keeps s (.tail _ (.head _))).trans (write_keeps _ x _ (.head _) (.head _))
  | ldI | addI | ldF => exact (setI_keeps s _ (.tail _ (.head _))).trans (advance_keeps _ (.head _))
  | ldDTVx => exact (setDt_keeps s _ (.tail _ (.head _))).trans (advance_keeps _ (.head _))
  | ldSTVx => exact (setSt_keeps s _ (.tail _ (.head _))).trans (advance_keeps _ (.head _))
  | ldVxK => exact setRun_keeps s _ (.head _)
  | ldB x => exact stored_keeps_of_length hwf (bcd_length _) h
  | stRegs x => exact stored_keeps_of_length hwf (State.regsUpTo_length s x) h
  | ldRegs x => exact loaded_keeps s x (.head _)

/-! ## Ignored fields (R83) -/

/-- No fault condition looks at an ignored field. -/
theorem canonical_faultIn : i.canonical.faultIn s = i.faultIn s := by cases i <;> rfl

theorem completed_canonical : completed i.canonical s = completed i s := by cases i <;> rfl

/-! ## The sound timer (R27) -/

/-- No fault condition looks at the sound timer. -/
theorem faultIn_setSt (b : Byte) : i.faultIn (s.setSt b) = i.faultIn s := by cases i <;> rfl

theorem completed_st (hi : ∀ x, i ≠ .ldSTVx x) : (completed i s).st = s.st := by
  cases i with
  | ldSTVx x => exact absurd rfl (hi x)
  | _ => rfl

theorem completed_setSt (hi : ∀ x, i ≠ .ldSTVx x) (b : Byte) : completed i (s.setSt b) = (completed i s).setSt b := by
  cases i with
  | ldSTVx x => exact absurd rfl (hi x)
  | _ => rfl

end

/-- Settles O54: an instruction that meets no fault condition completes, with the frame of its row. -/
theorem everyInstructionKeepsWhatItsRowDoesNotWrite : Obligations.EveryInstructionKeepsWhatItsRowDoesNotWrite :=
  fun i s hwf h => ⟨completed i s, exec_of_faultIn_eq_none h, completed_keeps hwf h⟩

/-- Settles O57: the fault condition and what the instruction does without one are those of its canonical form. -/
theorem ignoredFieldsHaveNoEffect : Obligations.IgnoredFieldsHaveNoEffect := by
  refine fun i s => ⟨fun hnone => ?_, fun info hsome => ?_⟩
  · rw [exec_of_faultIn_eq_none hnone, exec_of_faultIn_eq_none (canonical_faultIn.trans hnone), completed_canonical]
  · exact ⟨faultsWith_of_faultIn hsome, faultsWith_of_faultIn (canonical_faultIn.trans hsome)⟩

/-- Settles O55: with another sound timer the instruction takes the same fault, or completes in the same way. -/
theorem noInstructionReadsTheSoundTimer : Obligations.NoInstructionReadsTheSoundTimer := by
  intro i s b
  have hsame : i.faultIn (s.setSt b) = i.faultIn s := faultIn_setSt b
  cases hfault : i.faultIn s with
  | some info =>
    refine ⟨_, _, faultsWith_of_faultIn hfault, faultsWith_of_faultIn (hsame.trans hfault), ?_, fun _ => ⟨rfl, rfl⟩⟩
    rintro ⟨x, rfl⟩
    cases hfault
  | none =>
    refine ⟨_, _, exec_of_faultIn_eq_none hfault, exec_of_faultIn_eq_none (hsame.trans hfault), ?_, fun hi => ?_⟩
    · rintro ⟨x, rfl⟩
      rfl
    · exact ⟨completed_setSt hi b, completed_st hi⟩

end Sys2Proof.Proofs.Completion
end

section
/-! SUPPORT. The machine's invariant holds after reset, and every step of every agent keeps it. -/

namespace Sys2Proof.Proofs.Invariant

open Sys2Proof Sys2Proof.Machine Sys2Proof.Proofs.Encoding Sys2Proof.Proofs.Control Sys2Proof.Proofs.IndexMemory
  Sys2Proof.Proofs.Exceptions Sys2Proof.Proofs.Completion Sys2Proof.Proofs.Reset

/-! ## What a completing instruction does to the pieces the invariant speaks of -/

section
variable {i : Instr} {s : State}

@[simp] theorem completed_fault : (completed i s).fault = s.fault := by cases i <;> rfl

@[simp] theorem completed_romSize : (completed i s).romSize = s.romSize := by cases i <;> rfl

@[simp] theorem completed_loaded : (completed i s).loaded = s.loaded := by cases i <;> rfl

@[simp] theorem completed_loadFailed : (completed i s).loadFailed = s.loadFailed := by cases i <;> rfl

/-- Only the entry to the key wait writes `run`, and it leaves `pc` at its own address (R163). -/
theorem completed_run :
    (completed i s).run = s.run ∨ ∃ x, (completed i s).run = .waitKey x ∧ (completed i s).pc = s.pc := by
  cases i with
  | ldVxK x => exact .inr ⟨x, rfl, rfl⟩
  | _ => exact .inl rfl

/-- Only a call writes a stack entry: the address after it (R112). -/
theorem completed_stack (k : Fin 16) :
    (completed i s).stack[k] = s.stack[k] ∨ (completed i s).stack[k] = s.pc + 2 := by
  cases i with
  | call nnn =>
    have pushed : (completed (.call nnn) s).stack[k] = if s.sp.val = k.val then s.pc + 2 else s.stack[k] :=
      Vector.getElem_setIfInBounds k.isLt
    rw [pushed]
    split
    · exact .inr rfl
    · exact .inl rfl
  | _ => exact .inl rfl

/-- An event of another stream is no fault report (R220). -/
theorem count_faultReport_cons {e : Output} (he : ∀ f, e ≠ .faultReport f) (es : List Output) (f : FaultRecord) :
    (e :: es).count (.faultReport f) = es.count (.faultReport f) := List.count_cons_of_ne (he f)

/-- No completing instruction reports a fault. -/
theorem completed_reports (f : FaultRecord) :
    (completed i s).outputs.count (.faultReport f) = s.outputs.count (.faultReport f) := by
  cases i with
  | cls | drw => exact count_faultReport_cons (fun _ => Output.noConfusion) _ f
  | _ => rfl

theorem completed_mem_wf (hwf : s.mem.wf = true) (h : i.faultIn s = none) : (completed i s).mem.wf = true := by
  have range {access : Access} {n : Nat} (hr : rangeFault access s.i.toNat n = none) (hn : n ≠ 0) :
      s.i.toNat + n ≤ Config.memSize := (inRange_iff.1 (rangeFault_eq_none_iff.1 hr)).resolve_left hn
  cases i with
  | ldB x => exact Memory.setBytes_wf hwf _ _ (.inr (range h (Nat.succ_ne_zero 2)))
  | stRegs x =>
    refine Memory.setBytes_wf hwf _ _ (.inr ?_)
    rw [State.regsUpTo_length]
    exact range h (by omega)
  | _ => exact hwf

/-! ### Where `pc` is after an instruction (R23, R81) -/

theorem advance_pc_le (hpc : s.pc.toNat + 1 < 4096) : (s.pc + 2).toNat ≤ 0x1000 := by bv_omega

theorem skipIf_pc_le (c : Bool) (hpc : s.pc.toNat + 1 < 4096) : (s.skipIf c).pc.toNat ≤ 0x10FE := by
  rw [State.skipIf_pc]
  cases c
  · exact Nat.le_trans (advance_pc_le hpc) (by decide)
  · exact show (s.pc + 4).toNat ≤ 0x10FE by bv_omega

/-- The sequential advance and the skips stay close to `pc`; a jump goes at most 255 past a 12-bit address; a return
goes where a stack entry says. -/
theorem completed_pc_le (hpc : s.pc.toNat + 1 < 4096)
    (hstack : ∀ k : Fin 16, (s.stack[k]).toNat ≤ 0x1000) : (completed i s).pc.toNat ≤ 0x10FE := by
  cases i with
  | jp nnn | call nnn =>
    have target : (addrWord nnn).toNat = nnn.toNat := addrWord_toNat nnn
    exact Nat.le_trans (Nat.le_of_eq target) (by omega)
  | jpV0 nnn =>
    have target : (addrWord nnn + byteWord (s.reg 0)).toNat = nnn.toNat + (s.reg 0).toNat :=
      addrWord_add_byteWord_toNat nnn (s.reg 0)
    exact Nat.le_trans (Nat.le_of_eq target) (by omega)
  | ret ign => exact Nat.le_trans (hstack ⟨s.sp.val - 1, by omega⟩) (by decide)
  | ldVxK x => exact show s.pc.toNat ≤ _ by omega
  | seImm | sneImm | seReg | sneReg | skp | sknp => exact skipIf_pc_le _ hpc
  | _ => exact Nat.le_trans (advance_pc_le hpc) (by decide)

/-! ## The fault an instruction takes is one that it may raise (R201) -/

theorem mayRaise_of_rangeFault {access : Access} {base count : Nat} {info : FaultInfo}
    (h : rangeFault access base count = some info) : ∃ a ≥ Config.memSize, info = .memOutOfBounds a access :=
  ⟨_, Nat.le_max_right _ _, (lowestBeyond_of_rangeFault h).2.symm⟩

theorem mayRaise_of_faultIn {info : FaultInfo} (h : i.faultIn s = some info) : i.MayRaise info := by
  cases i with
  | ret | call => exact (Option.ite_some_none_eq_some.1 h).2.symm
  | skp x | sknp x =>
    obtain ⟨hbeyond, rfl⟩ := Option.ite_some_none_eq_some.1 h
    exact ⟨s.reg x, hbeyond, rfl⟩
  | drw | ldB | stRegs | ldRegs => exact mayRaise_of_rangeFault h
  | _ => cases h

end

/-! ## The updates that keep the invariant -/

section
variable {s : State} (h : Inv s)
include h

/-- A block that is not idle has loaded a ROM, and no load of it has failed. -/
theorem loaded_of_run_ne_idle (hrun : s.run ≠ .idle) : s.loaded = true ∧ s.loadFailed = false :=
  ⟨Bool.of_not_eq_false fun e => hrun (h.beforeLoad e).1, Bool.of_not_eq_true fun e => hrun (h.afterFailure e)⟩

theorem fault_eq_none (hrun : ∀ f, s.run ≠ .faulted f) : s.fault = none :=
  Option.eq_none_iff_forall_ne_some.2 fun f hf => hrun f ((h.faultedIff f).2 hf)

theorem inv_setSchedule (ts : List Turn) : Inv (s.setSchedule ts) := { h with }

/-- A started block goes from one run state to another, neither of them a fault nor a wait entered now. -/
theorem inv_setRun {r : RunState} (hs : ∀ f, s.run ≠ .faulted f) (hr : ∀ f, r ≠ .faulted f) (hw : ∀ x, r ≠ .waitKey x)
    (hloaded : s.loaded = true ∧ s.loadFailed = false) : Inv (s.setRun r) :=
  { h with
    faultedIff := fun f => iff_of_false (hr f) fun hf => nomatch (fault_eq_none h hs).symm.trans hf
    waitPc := fun x hx => absurd hx (hw x)
    beforeLoad := fun hl => nomatch hloaded.1.symm.trans hl
    afterFailure := fun hf => nomatch hloaded.2.symm.trans hf }

/-- Taking a fault from `Running` writes the one record there is, and reports it once (R202). -/
theorem inv_faulted (hrun : s.run = .running) {info : FaultInfo} {w : Option Word}
    (sound : (⟨info, s.pc, w⟩ : FaultRecord).Sound) : Inv (s.faulted info w) := by
  obtain ⟨hloaded, hok⟩ := loaded_of_run_ne_idle h (hrun ▸ RunState.noConfusion)
  have hnone : s.fault = none := fault_eq_none h fun f hf => nomatch hrun.symm.trans hf
  exact { h with
    faultedIff := fun f => by simp [State.faulted]
    recordSound := fun f hf => Option.some.inj hf ▸ sound
    oneReport := fun f => by
      have none_before := h.oneReport f
      rw [hnone, if_neg (Option.some_ne_none f).symm] at none_before
      simp [State.faulted, List.count_cons, none_before]
    waitPc := fun x hx => nomatch hx
    beforeLoad := fun hl => nomatch hloaded.symm.trans hl
    afterFailure := fun hf => nomatch hok.symm.trans hf }

/-! ## The engine's step -/

theorem inv_completed {i : Instr} (hrun : s.run = .running) (hpc : s.pc.toNat + 1 < Config.memSize)
    (hfault : i.faultIn s = none) : Inv (completed i s) := by
  obtain ⟨hloaded, hok⟩ := loaded_of_run_ne_idle h (hrun ▸ RunState.noConfusion)
  have hnone : s.fault = none := fault_eq_none h fun f hf => nomatch hrun.symm.trans hf
  have run : (completed i s).run = .running ∨ ∃ x, (completed i s).run = .waitKey x ∧ (completed i s).pc = s.pc :=
    hrun ▸ completed_run
  exact {
    memory := completed_mem_wf h.memory hfault
    pcBound := completed_pc_le hpc h.frameBound
    frameBound := fun k => by
      rcases completed_stack (i := i) (s := s) k with e | e <;> rw [e]
      · exact h.frameBound k
      · exact advance_pc_le hpc
    faultedIff := fun f => by
      rw [completed_fault, hnone]
      rcases run with e | ⟨x, e, -⟩ <;> simp [e]
    recordSound := fun f hf => h.recordSound f (completed_fault ▸ hf)
    oneReport := fun f => by rw [completed_reports, completed_fault]; exact h.oneReport f
    waitPc := fun x hx => by
      rcases run with e | ⟨y, -, e⟩
      · exact nomatch e.symm.trans hx
      · rwa [e]
    romBound := Nat.le_trans (Nat.le_of_eq completed_romSize) h.romBound
    beforeLoad := fun hl => absurd (hloaded.symm.trans (completed_loaded.symm.trans hl)) (by decide)
    afterFailure := fun hf => absurd (hok.symm.trans (completed_loadFailed.symm.trans hf)) (by decide) }

theorem inv_of_exec {i : Instr} {t : State} (hrun : s.run = .running) (hpc : s.pc.toNat + 1 < Config.memSize)
    (hexec : exec i s = .next t) : Inv t := by
  cases hfault : i.faultIn s with
  | some info =>
    obtain rfl := Host.Outcome.next.inj ((faultsWith_of_faultIn hfault).symm.trans hexec)
    exact inv_faulted h hrun (.inr ⟨_, i, rfl, decodeWord_encode i, mayRaise_of_faultIn hfault⟩)
  | none =>
    obtain rfl := Host.Outcome.next.inj ((exec_of_faultIn_eq_none hfault).symm.trans hexec)
    exact inv_completed h hrun hpc hfault

theorem inv_of_instructionStep {t : State} (hrun : s.run = .running) (hstep : instructionStep s = .next t) : Inv t := by
  rcases instructionStep_cases s with ⟨-, hf⟩ | ⟨hpc, i, -, hi⟩ | ⟨hpc, w, -, -, hw⟩
  · obtain rfl := Host.Outcome.next.inj (hf.symm.trans hstep)
    exact inv_faulted h hrun (.inl ⟨rfl, _, Nat.le_max_right _ _, rfl⟩)
  · exact inv_of_exec h hrun hpc (hi.symm.trans hstep)
  · obtain rfl := Host.Outcome.next.inj (hw.symm.trans hstep)
    exact { h with
      pcBound := Nat.le_trans (advance_pc_le hpc) (by decide)
      oneReport := fun f => (count_faultReport_cons (fun _ => Output.noConfusion) _ f).trans (h.oneReport f)
      waitPc := fun x hx => nomatch hrun.symm.trans hx }

/-! ## The steps of the agents around the engine -/

theorem inv_tick : Inv (tick s) := by
  unfold tick
  split
  · exact { h with }
  · exact h

/-- The completion of a wait resumes after the instruction that entered it (R164). -/
theorem inv_completeWait {x k : Nibble} (hrun : s.run = .waitKey x) : Inv (completeWait x k (s.setKey k true)) :=
  have resumed : Inv (s.setRun .running) :=
    inv_setRun h (fun f hf => nomatch hrun.symm.trans hf) (fun _ => RunState.noConfusion)
      (fun _ => RunState.noConfusion) (loaded_of_run_ne_idle h (hrun ▸ RunState.noConfusion))
  { resumed with
    pcBound := Nat.le_trans (advance_pc_le (h.waitPc x hrun)) (by decide)
    waitPc := fun _ hx => nomatch hx }

theorem inv_keyChange (k : Nibble) (b : Bool) : Inv (keyChange k b s) := by
  rcases keyChange_cases k b s with ⟨x, hrun, -, -, e⟩ | ⟨-, e⟩ <;> rw [e]
  · exact inv_completeWait h hrun
  · exact { h with }

theorem inv_failLoad (reason : LoadFailure) (hrun : s.run = .idle) : Inv (s.failLoad reason) :=
  { h with
    oneReport := fun f => (count_faultReport_cons (fun _ => Output.noConfusion) _ f).trans (h.oneReport f)
    afterFailure := fun _ => hrun }

theorem inv_loadRom (r : LoadResult) : Inv (loadRom r s) := by
  rcases loadRom_cases r s with ⟨-, e⟩ | ⟨hrun, -, ⟨-, e⟩ | ⟨rom, -, -, e⟩ | ⟨rom, -, hlen, e⟩⟩ <;> rw [e]
  · exact h
  · exact inv_failLoad h _ hrun
  · exact inv_failLoad h _ hrun
  · exact { h with
      memory := Memory.setBytes_wf h.memory _ rom (.inr (Nat.add_le_add_left hlen _))
      romBound := hlen
      beforeLoad := fun hl => nomatch hl }

theorem inv_start : Inv (start s) := by
  rcases start_cases s with ⟨hrun, hloaded, hok, e⟩ | ⟨-, e⟩ <;> rw [e]
  · exact inv_setRun h (fun f hf => nomatch hrun.symm.trans hf) (fun _ => RunState.noConfusion)
      (fun _ => RunState.noConfusion) ⟨hloaded, hok⟩
  · exact h

theorem inv_stop : Inv (stop s) := by
  unfold stop
  split
  case isTrue hlive =>
    have hrun (r : RunState) (hr : r.live = false) : s.run ≠ r := fun e =>
      absurd (hlive.symm.trans ((congrArg RunState.live e).trans hr)) (by decide)
    exact inv_setRun h (fun f => hrun _ rfl) (fun _ => RunState.noConfusion) (fun _ => RunState.noConfusion)
      (loaded_of_run_ne_idle h (hrun _ rfl))
  case isFalse => exact h

end

/-- Settles O17: memory lists nothing, and nothing has run, failed or been loaded. -/
theorem invariantHoldsAtReset : Obligations.InvariantHoldsAtReset where
  memory := State.reset_mem_wf
  pcBound := by decide
  frameBound := fun k => by rw [reset_stack]; decide
  faultedIff := fun _ => iff_of_false RunState.noConfusion (fun hf => nomatch hf)
  recordSound := fun _ hf => nomatch hf
  oneReport := fun _ => rfl
  waitPc := fun _ hx => nomatch hx
  romBound := Nat.zero_le _
  beforeLoad := fun _ => ⟨rfl, rfl⟩
  afterFailure := fun hf => nomatch hf

/-- Settles O18: a step is the engine's instruction step or another agent's, and each of them keeps the invariant. -/
theorem everyStepKeepsTheInvariant : Obligations.EveryStepKeepsTheInvariant := by
  intro s t h hstep
  have left (ts : List Turn) : Inv (s.setSchedule ts) := inv_setSchedule h ts
  rcases step_cases hstep with ⟨hrun, -, hi⟩ | ⟨ts, hrun, -, hi⟩ | ⟨ts, -, -, rfl⟩ | ⟨ts, -, rfl⟩ |
    ⟨k, b, ts, -, rfl⟩ | ⟨r, ts, -, rfl⟩ | ⟨ts, -, rfl⟩ | ⟨ts, -, rfl⟩
  · exact inv_of_instructionStep h hrun hi
  · exact inv_of_instructionStep (left ts) hrun hi
  · exact left ts
  · exact inv_tick (left ts)
  · exact inv_keyChange (left ts) k b
  · exact inv_loadRom (left ts) r
  · exact inv_start (left ts)
  · exact inv_stop (left ts)

end Sys2Proof.Proofs.Invariant
end

section
/-! SUPPORT. The turns of the agents, run state by run state (R30, R206, R209, R213, R231): which pass, which change the
timers or the keypad alone, which change the run state. That a turn which is not enabled passes is assumption 2. -/

namespace Sys2Proof.Proofs.Turns

open Sys2Proof Sys2Proof.Machine Sys2Proof.Proofs.Frames Sys2Proof.Proofs.TimersKeys

section
variable {s : State} {turn : Turn} {ts : List Turn}

/-! ## A scheduled turn -/

theorem step_of_turn (h : s.schedule = turn :: ts) : step s = takeTurn turn (s.setSchedule ts) := by
  simp only [step, h]

theorem step_setSchedule (s : State) (turn : Turn) (ts : List Turn) :
    step (s.setSchedule (turn :: ts)) = takeTurn turn (s.setSchedule ts) := rfl

theorem step_of_no_turn (h : s.schedule = []) : step s = engineAlone s := by
  simp only [step, h]

/-- The step of a scheduled turn completes, with the turns after it left. -/
theorem exists_step_of_turn (h : s.schedule = turn :: ts) : ∃ t, step s = .next t ∧ t.schedule = ts := by
  obtain ⟨t, -, hstep⟩ := step_scheduled turn s
  exact ⟨t.setSchedule ts, by rw [← hstep ts, State.setSchedule_self s _ h], rfl⟩

/-! ## The run states in which the timers and Stop are enabled (R206, R213) -/

theorem live_iff {r : RunState} : r.live = true ↔ r = .running ∨ ∃ x, r = .waitKey x := by
  cases r <;> simp [RunState.live]

theorem live_eq_false_iff {r : RunState} : r.live = false ↔ r = .idle ∨ r = .stopped ∨ ∃ f, r = .faulted f := by
  cases r <;> simp [RunState.live]

theorem tick_of_live (h : s.run.live = true) : tick s = (s.setDt (countDown s.dt)).setSt (countDown s.st) := if_pos h

theorem tick_of_not_live (h : s.run.live = false) : tick s = s := if_neg (by rw [h]; decide)

theorem stop_of_live (h : s.run.live = true) : stop s = s.setRun .stopped := if_pos h

theorem stop_of_not_live (h : s.run.live = false) : stop s = s := if_neg (by rw [h]; decide)

/-! ## Turns that are not enabled pass -/

theorem takeTurn_engine_of_not_running (h : s.run ≠ .running) : takeTurn .engine s = .next s := if_neg h

theorem loadRom_of_refused (r : LoadResult) (h : s.run ≠ .idle ∨ s.loaded = true) : loadRom r s = s := by
  rcases loadRom_cases r s with ⟨-, e⟩ | ⟨hidle, hunloaded, -⟩
  · exact e
  · exact absurd hidle (h.resolve_right fun hl => nomatch hl.symm.trans hunloaded)

theorem start_of_enabled (hidle : s.run = .idle) (hloaded : s.loaded = true) (hok : s.loadFailed = false) :
    start s = s.setRun .running := if_pos ⟨hidle, hloaded, hok⟩

theorem start_of_refused (h : s.run ≠ .idle ∨ s.loaded = false ∨ s.loadFailed = true) : start s = s := by
  rcases start_cases s with ⟨hidle, hloaded, hok, -⟩ | ⟨-, e⟩
  · rcases h with h | h | h
    · exact absurd hidle h
    · exact nomatch h.symm.trans hloaded
    · exact nomatch h.symm.trans hok
  · exact e

/-- A key change that completes no wait changes the keypad alone. -/
theorem keyChange_of_no_press (k : Nibble) (b : Bool)
    (h : ∀ x, s.run = .waitKey x → b = true → s.keyDown k = true) : keyChange k b s = s.setKey k b := by
  rcases keyChange_cases k b s with ⟨x, hrun, hb, hup, -⟩ | ⟨-, e⟩
  · exact absurd (hup.symm.trans (h x hrun hb)) (by decide)
  · exact e

/-! ## Turns that change the timers and the keypad at most -/

/-- What a turn does that leaves the run state of a started block alone: a tick counts the timers down, a key change
writes the keypad, and no other turn has an effect. -/
def background : Turn → State → State
  | .tick, s => tick s
  | .keyChange k b, s => s.setKey k b
  | _, s => s

/-- A turn that moves neither the engine nor the run state of a started block. -/
structure Quiet (turn : Turn) (s : State) : Prop where
  started : s.run ≠ .idle
  noStep : turn = .engine → s.run ≠ .running
  noStop : turn = .stop → s.run.live = false
  noPress : ∀ x k, s.run = .waitKey x → turn = .keyChange k true → s.keyDown k = true

theorem takeTurn_of_quiet (h : Quiet turn s) : takeTurn turn s = .next (background turn s) := by
  cases turn with
  | engine => exact takeTurn_engine_of_not_running (h.noStep rfl)
  | tick => rfl
  | keyChange k b =>
    exact congrArg Host.Outcome.next (keyChange_of_no_press k b fun x hrun hb => h.noPress x k hrun (hb ▸ rfl))
  | loadRom r => exact congrArg Host.Outcome.next (loadRom_of_refused r (.inl h.started))
  | start => exact congrArg Host.Outcome.next (start_of_refused (.inl h.started))
  | stop => exact congrArg Host.Outcome.next (stop_of_not_live (h.noStop rfl))

/-- A tick that is enabled writes the two timers (R206). -/
theorem tick_keeps {ps : List Piece} (hdt : .dt ∈ ps) (hst : .st ∈ ps) : KeepsAllBut s (tick s) ps [] := by
  cases hlive : s.run.live with
  | true => rw [tick_of_live hlive]; exact (setDt_keeps s _ hdt).trans (setSt_keeps _ _ hst)
  | false => rw [tick_of_not_live hlive]; exact Keeps.refl s _ _ _ _

theorem background_keeps : KeepsAllBut s (background turn s) [.dt, .st, .keys] [] := by
  cases turn with
  | tick => exact tick_keeps (by decide) (by decide)
  | keyChange k b => exact setKey_keeps s k b (by decide)
  | _ => exact Keeps.refl s _ _ _ _

/-- Where no tick is enabled, the keypad alone. -/
theorem background_keeps_of_not_live (h : s.run.live = false) :
    KeepsAllBut s (background turn s) [.keys] [] := by
  cases turn with
  | tick => rw [background, tick_of_not_live h]; exact Keeps.refl s _ _ _ _
  | keyChange k b => exact setKey_keeps s k b (by decide)
  | _ => exact Keeps.refl s _ _ _ _

theorem step_of_quiet (hturn : s.schedule = turn :: ts) (h : Quiet turn s) :
    step s = .next (background turn (s.setSchedule ts)) := by
  have left : Quiet turn (s.setSchedule ts) := { h with }
  exact (step_of_turn hturn).trans (takeTurn_of_quiet left)

theorem background_setSchedule_schedule : (background turn (s.setSchedule ts)).schedule = ts :=
  (background_keeps (s := s.setSchedule ts)).1 .schedule (by decide)

theorem step_background_keeps :
    KeepsAllBut s (background turn (s.setSchedule ts)) [.dt, .st, .keys, .schedule] [] :=
  (setSchedule_keeps s ts (by decide)).trans (background_keeps.mono (by decide) (by decide))

/-! ## The press of a key in a wait (R210) -/

theorem step_of_press {x k : Nibble} (hturn : s.schedule = .keyChange k true :: ts) (hrun : s.run = .waitKey x)
    (hup : s.keyDown k = false) : step s = .next (completeWait x k ((s.setSchedule ts).setKey k true)) := by
  rcases keyChange_cases k true (s.setSchedule ts) with ⟨y, hrun', -, -, e⟩ | ⟨hno, -⟩
  · obtain rfl : x = y := RunState.waitKey.inj (hrun.symm.trans hrun')
    exact (step_of_keyChange hturn).trans (congrArg Host.Outcome.next e)
  · exact absurd (hup.symm.trans (hno x hrun rfl)) (by decide)

theorem step_press_keeps {x k : Nibble} :
    KeepsAllBut s (completeWait x k ((s.setSchedule ts).setKey k true)) [.pc, .run, .keys, .schedule] [x] :=
  ((setSchedule_keeps s ts (by decide)).trans (setKey_keeps _ k true (by decide))).trans
    (completeWait_keeps (by decide) (by decide) (by simp))

end

/-! ## The statements about single turns -/

/-- Settles O8: the engine's turn looks at the run state first. -/
theorem engineStepsOnlyWhileRunning : Obligations.EngineStepsOnlyWhileRunning := by
  refine fun s => ⟨fun hrun ts hturn => ?_, fun hnil => ?_⟩
  · exact (step_of_turn hturn).trans (takeTurn_engine_of_not_running hrun)
  · have alone : step s = engineAlone s := step_of_no_turn hnil
    refine ⟨fun hr => ?_, fun ⟨x, hr⟩ => ?_, fun hr => ?_, fun ⟨f, hr⟩ => ?_⟩ <;> simp only [alone, engineAlone, hr]

/-- Settles O9: the timers count down where `run` is live, and nothing happens elsewhere. -/
theorem tickCountsBothTimersDown : Obligations.TickCountsBothTimersDown := by
  intro s ts hturn
  have hstep : step s = .next (tick (s.setSchedule ts)) := step_of_turn hturn
  refine ⟨fun hrun => ?_, fun hrun => ?_⟩
  · have live : (s.setSchedule ts).run.live = true := live_iff.2 hrun
    rw [tick_of_live live] at hstep
    exact ⟨_, hstep, countDown_toNat s.dt, countDown_toNat s.st, rfl,
      ((setSchedule_keeps s ts (by decide)).trans (setDt_keeps _ _ (by decide))).trans (setSt_keeps _ _ (by decide))⟩
  · have resting : (s.setSchedule ts).run.live = false := live_eq_false_iff.2 hrun
    rw [hstep, tick_of_not_live resting]
    rfl

/-- Settles O12: Start is enabled by three conditions, Stop by a live run state. -/
theorem startAndStopSetTheRunState : Obligations.StartAndStopSetTheRunState := by
  refine fun s ts => ⟨fun hturn => ?_, fun hturn => ?_⟩
  · have hstep : step s = .next (start (s.setSchedule ts)) := step_of_turn hturn
    refine ⟨fun hidle hloaded hok => ?_, fun hrefused => ?_⟩
    · exact hstep.trans (congrArg Host.Outcome.next (start_of_enabled hidle hloaded hok))
    · exact hstep.trans (congrArg Host.Outcome.next (start_of_refused hrefused))
  · have hstep : step s = .next (stop (s.setSchedule ts)) := step_of_turn hturn
    refine ⟨fun hrun => ?_, fun hrun => ?_⟩
    · exact hstep.trans (congrArg Host.Outcome.next (stop_of_live (live_iff.2 hrun)))
    · exact hstep.trans (congrArg Host.Outcome.next (stop_of_not_live (live_eq_false_iff.2 hrun)))

/-- Settles O19: in a final state every turn is quiet, and no tick is enabled. -/
theorem finalStatesStayFinal : Obligations.FinalStatesStayFinal := by
  intro s turn ts hfinal hturn
  have resting : s.run.live = false := live_eq_false_iff.2 (.inr hfinal)
  have not_live {r : RunState} (hr : r.live = true) : s.run ≠ r := fun e =>
    absurd (resting.symm.trans ((congrArg RunState.live e).trans hr)) (by decide)
  have quiet : Quiet turn s := {
    started := by rcases hfinal with e | ⟨f, e⟩ <;> rw [e] <;> exact RunState.noConfusion
    noStep := fun _ => not_live rfl
    noStop := fun _ => resting
    noPress := fun x _ hrun => absurd hrun (not_live rfl) }
  have keypad : KeepsAllBut (s.setSchedule ts) (background turn (s.setSchedule ts)) [.keys] [] :=
    background_keeps_of_not_live resting
  have frame : KeepsAllBut s (background turn (s.setSchedule ts)) [.keys, .schedule] [] :=
    (setSchedule_keeps s ts (by decide)).trans (keypad.mono (by decide) (by decide))
  exact ⟨_, step_of_quiet hturn quiet, background_setSchedule_schedule, frame⟩

/-- Settles O20: in a wait every turn is quiet but a stop and the press of a key. -/
theorem onlyAKeyPressOrStopEndsAWait : Obligations.OnlyAKeyPressOrStopEndsAWait := by
  intro s x turn ts hrun hturn
  have live : s.run.live = true := live_iff.2 (.inr ⟨x, hrun⟩)
  by_cases hstop : turn = .stop
  · subst hstop
    have hstep : step s = .next ((s.setSchedule ts).setRun .stopped) :=
      (step_of_turn hturn).trans (congrArg Host.Outcome.next (stop_of_live live))
    exact ⟨_, hstep, fun hne => absurd rfl hne, fun _ => ⟨rfl,
      (setSchedule_keeps s ts (by decide)).trans (setRun_keeps _ _ (by decide))⟩, fun k hk => nomatch hk⟩
  by_cases hpress : ∃ k, turn = .keyChange k true ∧ s.keyDown k = false
  · obtain ⟨k, rfl, hup⟩ := hpress
    refine ⟨_, step_of_press hturn hrun hup, fun _ hdown => ?_, fun e => absurd e hstop, fun k' hk' _ => ⟨rfl, ?_⟩⟩
    · exact absurd (hup.symm.trans (hdown k rfl)) (by decide)
    · exact step_press_keeps
  · have down : ∀ k, turn = .keyChange k true → s.keyDown k = true := fun k hk =>
      Bool.of_not_eq_false fun hup => hpress ⟨k, hk, hup⟩
    have quiet : Quiet turn s := {
      started := hrun ▸ RunState.noConfusion
      noStep := fun _ => hrun ▸ RunState.noConfusion
      noStop := fun e => absurd e hstop
      noPress := fun _ k _ => down k }
    have frame := step_background_keeps (s := s) (turn := turn) (ts := ts)
    refine ⟨_, step_of_quiet hturn quiet, fun _ _ => ⟨?_, frame⟩, fun e => absurd e hstop, fun k hk hup => ?_⟩
    · exact Eq.trans (frame.1 .run (by decide)) hrun
    · exact absurd ⟨k, hk, hup⟩ hpress

end Sys2Proof.Proofs.Turns
end

section
/-! SUPPORT. Loading a ROM (R231), construction with a font (R52, R230), and the boot sequence (R230 to R232). -/

namespace Sys2Proof.Proofs.Loading

open Sys2Proof Sys2Proof.Machine Sys2Proof.Proofs.Frames Sys2Proof.Proofs.Reset Sys2Proof.Proofs.Turns

section
variable {s : State} {rom : List Byte}

/-! ## LoadRom, case by case -/

/-- The state a load of a ROM that fits leaves. -/
def romLoaded (s : State) (rom : List Byte) : State :=
  (s.setMem (s.mem.setBytes Config.programBase rom)).setRom rom.length

theorem loadRom_of_unreadable (hidle : s.run = .idle) (hl : s.loaded = false) :
    loadRom .readFailure s = s.failLoad .unreadable := if_pos ⟨hidle, hl⟩

theorem loadRom_of_too_large (hidle : s.run = .idle) (hl : s.loaded = false) (hlen : 3584 < rom.length) :
    loadRom (.bytes rom) s = s.failLoad .tooLarge :=
  (if_pos ⟨hidle, hl⟩).trans (if_pos hlen)

theorem loadRom_of_fits (hidle : s.run = .idle) (hl : s.loaded = false) (hlen : rom.length ≤ 3584) :
    loadRom (.bytes rom) s = romLoaded s rom :=
  (if_pos ⟨hidle, hl⟩).trans (if_neg (Nat.not_lt.2 hlen))

theorem step_of_fits {ts : List Turn} (hturn : s.schedule = .loadRom (.bytes rom) :: ts) (hidle : s.run = .idle)
    (hl : s.loaded = false) (hlen : rom.length ≤ 3584) : step s = .next (romLoaded (s.setSchedule ts) rom) :=
  (step_of_turn hturn).trans (congrArg Host.Outcome.next (loadRom_of_fits hidle hl hlen))

/-! ## What memory holds after a load -/

section
variable (hwf : s.mem.wf = true) (hlen : rom.length ≤ 3584)
include hwf hlen

theorem romLoaded_peek (a : Nat) :
    (romLoaded s rom).peek a =
      if 0x200 ≤ a ∧ a < 0x200 + rom.length then rom.getD (a - 0x200) 0 else s.peek a :=
  State.setBytes_peek hwf 0x200 rom (.inr (Nat.add_le_add_left hlen 0x200)) a

theorem romLoaded_peek_inside {j : Nat} (h : j < rom.length) : (romLoaded s rom).peek (0x200 + j) = rom[j] := by
  rw [romLoaded_peek hwf hlen, if_pos (by omega), Nat.add_sub_cancel_left, List.getElem_eq_getD]

theorem romLoaded_peek_outside {a : Nat} (h : a < 0x200 ∨ 0x200 + rom.length ≤ a) :
    (romLoaded s rom).peek a = s.peek a := by
  rw [romLoaded_peek hwf hlen, if_neg (by omega)]

theorem romLoaded_keeps : Keeps s (romLoaded s rom) [.rom] [] 0x200 rom.length := by
  refine ⟨fun p hp => ?_, fun _ _ => rfl, fun _ => romLoaded_peek_outside hwf hlen⟩
  cases p
  case rom => exact absurd (by decide) hp
  all_goals simp [Piece.Same, romLoaded]

end

/-- Whatever becomes of a load, memory below 0x200 reads as before. -/
theorem loadRom_peek_below (hwf : s.mem.wf = true) (r : LoadResult) {a : Nat} (ha : a < 0x200) :
    (loadRom r s).peek a = s.peek a := by
  rcases loadRom_cases r s with ⟨-, e⟩ | ⟨-, -, ⟨-, e⟩ | ⟨rom, -, -, e⟩ | ⟨rom, -, hlen, e⟩⟩ <;> rw [e]
  · exact State.failLoad_peek ..
  · exact State.failLoad_peek ..
  · exact romLoaded_peek_outside hwf hlen (.inl ha)

/-! ## Construction -/

theorem blank_wf : Memory.blank.wf = true :=
  Memory.setBytes_wf State.reset_mem_wf _ _ (.inr (by decide))

/-- Construction with a font writes memory alone. -/
theorem construct_eq (font : List Byte) : State.construct font = State.reset.setMem (State.construct font).mem := rfl

theorem construct_wf {font : List Byte} (hf : font.length = 80) : (State.construct font).mem.wf = true :=
  Memory.setBytes_wf blank_wf _ _ (.inr (by rw [hf]; decide))

/-- The font, and above it the reset contents. -/
theorem construct_peek {font : List Byte} (hf : font.length = 80) (a : Nat) :
    (State.construct font).peek a = if a < 80 then font.getD a 0 else State.reset.peek a := by
  have written : (State.construct font).peek a = if 0 ≤ a ∧ a < 0 + font.length then font.getD (a - 0) 0
      else Memory.blank.get a := Memory.get_setBytes blank_wf 0 font (.inr (by rw [hf]; decide)) a
  have blank : Memory.blank.get a = if 0 ≤ a ∧ a < 0 + 80 then (List.replicate 80 0).getD (a - 0) 0
      else State.reset.peek a := Memory.get_setBytes State.reset_mem_wf 0 (List.replicate 80 0) (.inr (by decide)) a
  rw [written, hf]
  by_cases ha : a < 80
  · rw [if_pos (by omega), if_pos ha, Nat.sub_zero]
  · rw [if_neg (by omega), if_neg ha, blank, if_neg (by omega)]

theorem construct_peek_font {font : List Byte} (hf : font.length = 80) {a : Nat} (h : a < 80) :
    (State.construct font).peek a = font[a] := by
  rw [construct_peek hf, if_pos h, List.getElem_eq_getD]

/-- With the default font memory reads as it does after reset, and so is the same list. -/
theorem construct_fontTable : State.construct Config.fontTable = State.reset := by
  have reads (a : Nat) : (State.construct Config.fontTable).peek a = State.reset.peek a := by
    rw [construct_peek fontTable_length]
    exact ite_eq_right_iff.2 fun _ => rfl
  have canonical : (State.construct Config.fontTable).mem.wf = true := construct_wf fontTable_length
  have same : (State.construct Config.fontTable).mem = State.reset.mem :=
    Memory.ext_get (lo := 0) canonical State.reset_mem_wf reads
  calc State.construct Config.fontTable
    _ = State.reset.setMem (State.construct Config.fontTable).mem := construct_eq _
    _ = State.reset.setMem State.reset.mem := by rw [same]
    _ = State.reset := rfl

theorem construct_keeps {font : List Byte} (hf : font.length = 80) :
    Keeps State.reset (State.construct font) [] [] 0 80 := by
  refine ⟨fun p _ => ?_, fun _ _ => rfl, fun a ha => ?_⟩
  · cases p <;> simp [Piece.Same, State.construct]
  · rw [construct_peek hf, if_neg (by omega)]

end

/-- Settles O11: a load is refused, fails, or copies the ROM. -/
theorem loadRomCopiesTheProgram : Obligations.LoadRomCopiesTheProgram := by
  intro s r ts hturn
  have hstep : step s = .next (loadRom r (s.setSchedule ts)) := step_of_turn hturn
  refine ⟨fun hrefused => ?_, fun hidle hl => ⟨?_, ?_, ?_⟩⟩
  · exact hstep.trans (congrArg Host.Outcome.next (loadRom_of_refused r hrefused))
  · rintro rfl
    exact hstep.trans (congrArg Host.Outcome.next (loadRom_of_unreadable hidle hl))
  · rintro rom rfl hlen
    exact hstep.trans (congrArg Host.Outcome.next (loadRom_of_too_large hidle hl hlen))
  · rintro rom rfl hlen hwf
    have frame : Keeps (s.setSchedule ts) (romLoaded (s.setSchedule ts) rom) [.rom] [] 0x200 rom.length :=
      romLoaded_keeps hwf hlen
    exact ⟨_, step_of_fits hturn hidle hl hlen, fun j => romLoaded_peek_inside hwf hlen, rfl, rfl, rfl,
      (setSchedule_keeps s ts (by decide)).trans (frame.mono (by decide) (by decide))⟩

/-- Settles O15: the font is written over a blank memory, and a ROM lies above it. -/
theorem constructionWritesTheFontBeforeTheRom : Obligations.ConstructionWritesTheFontBeforeTheRom := by
  refine ⟨construct_fontTable, fun font hf => ⟨construct_wf hf, construct_keeps hf,
    fun a h => construct_peek_font hf h, fun rom a h => ?_⟩⟩
  rw [loadRom_peek_below (construct_wf hf) _ (by omega), construct_peek_font hf h]

/-- Settles O16: the load copies the ROM to where the reset `pc` is, and the start is enabled after it. -/
theorem bootRunsTheRomFrom0x200 : Obligations.BootRunsTheRomFrom0x200 := by
  intro rom h2 hlen ts
  let s₁ := romLoaded (State.reset.setSchedule (.start :: ts)) rom
  have load : step (State.reset.setSchedule (.loadRom (.bytes rom) :: .start :: ts)) = .next s₁ :=
    step_of_fits rfl rfl rfl hlen
  have started : step s₁ = .next ((s₁.setSchedule ts).setRun .running) :=
    (step_setSchedule s₁ .start ts).trans
      (congrArg Host.Outcome.next (start_of_enabled (s := s₁.setSchedule ts) rfl rfl rfl))
  have ran : Host.Core.run Sys2Proof.core 2 (State.reset.setSchedule (.loadRom (.bytes rom) :: .start :: ts)) =
      .next ((s₁.setSchedule ts).setRun .running) :=
    (core_run_succ 1 load).trans (core_run_succ 0 started)
  have byte {j : Nat} (hj : j < rom.length) : s₁.peek (0x200 + j) = rom[j] :=
    romLoaded_peek_inside State.reset_mem_wf hlen hj
  refine ⟨_, ran, rfl, rfl, ?_, rfl⟩
  rw [← byte (j := 0) (by omega), ← byte (j := 1) (by omega)]
  rfl

end Sys2Proof.Proofs.Loading
end

section
/-! SUPPORT. The unknown words (R77), and words spelled out from the opcode map (R71, R74, R75). -/

namespace Sys2Proof.Proofs.Encoding

open Sys2Proof

/-! ## Which words are unknown, class by class (R77) -/

section
variable {w : Word}

theorem decodeClass0_unknown_iff : decodeClass0 w = .unknownOpcode w ↔ w.kk ≠ 0xE0 ∧ w.kk ≠ 0xEE := by
  unfold decodeClass0
  split
  case h_3 h0 h1 => exact iff_of_true rfl ⟨h0, h1⟩
  all_goals rename_i e; rw [e]; exact iff_of_false (fun hu => nomatch hu) (by decide)

theorem decodeClass8_unknown_iff :
    decodeClass8 w = .unknownOpcode w ↔ w.n ∈ [(0x8 : Nibble), 0x9, 0xA, 0xB, 0xC, 0xD, 0xF] := by
  unfold decodeClass8
  split
  case h_10 =>
    refine iff_of_true rfl ?_
    generalize w.n = n at *
    revert n
    decide
  all_goals rename_i e; rw [e]; exact iff_of_false (fun hu => nomatch hu) (by decide)

theorem decodeClassE_unknown_iff : decodeClassE w = .unknownOpcode w ↔ w.kk ≠ 0x9E ∧ w.kk ≠ 0xA1 := by
  unfold decodeClassE
  split
  case h_3 h0 h1 => exact iff_of_true rfl ⟨h0, h1⟩
  all_goals rename_i e; rw [e]; exact iff_of_false (fun hu => nomatch hu) (by decide)

theorem decodeClassF_unknown_iff :
    decodeClassF w = .unknownOpcode w ↔ w.kk ∉ [(0x07 : Byte), 0x0A, 0x15, 0x18, 0x1E, 0x29, 0x33, 0x55, 0x65] := by
  unfold decodeClassF
  split
  case h_10 h07 h0A h15 h18 h1E h29 h33 h55 h65 =>
    refine iff_of_true rfl ?_
    simpa only [List.mem_cons, List.not_mem_nil, or_false, not_or] using ⟨h07, h0A, h15, h18, h1E, h29, h33, h55, h65⟩
  all_goals rename_i e; rw [e]; exact iff_of_false (fun hu => nomatch hu) (by decide)

/-- The low bytes and nibbles of R77's table, by the class of the word. -/
abbrev UnknownIn (c : Nibble) (k : Byte) (n : Nibble) : Prop :=
  (c = 0x0 ∧ k ≠ 0xE0 ∧ k ≠ 0xEE) ∨ (c = 0x8 ∧ n ∈ [(0x8 : Nibble), 0x9, 0xA, 0xB, 0xC, 0xD, 0xF]) ∨
  (c = 0xE ∧ k ≠ 0x9E ∧ k ≠ 0xA1) ∨
  (c = 0xF ∧ k ∉ [(0x07 : Byte), 0x0A, 0x15, 0x18, 0x1E, 0x29, 0x33, 0x55, 0x65])

theorem decodeWord_unknown_iff : decodeWord w = .unknownOpcode w ↔ UnknownIn w.opClass w.kk w.n := by
  unfold decodeWord UnknownIn
  split
  case h_1 e => rw [decodeClass0_unknown_iff, e]; simp
  case h_9 e => rw [decodeClass8_unknown_iff, e]; simp
  case h_15 e => rw [decodeClassE_unknown_iff, e]; simp
  case h_16 =>
    have e : w.opClass = 0xF := by generalize w.opClass = c at *; revert c; decide
    rw [decodeClassF_unknown_iff, e]; simp
  all_goals rename_i e; simp [e]

end

/-! ## How many they are -/

section
variable (hi lo : Byte)

theorem wordOfBytes_getLsbD (i : Nat) :
    (wordOfBytes hi lo).getLsbD i = if i < 8 then lo.getLsbD i else hi.getLsbD (i - 8) :=
  BitVec.getLsbD_append (x := hi) (y := lo)

@[simp] theorem wordOfBytes_opClass : (wordOfBytes hi lo).opClass = hi.extractLsb' 4 4 := by
  refine BitVec.eq_of_getLsbD_eq fun i hlt => ?_
  simp only [Word.opClass, BitVec.getLsbD_extractLsb', wordOfBytes_getLsbD]; grind

@[simp] theorem wordOfBytes_kk : (wordOfBytes hi lo).kk = lo := by
  refine BitVec.eq_of_getLsbD_eq fun i hlt => ?_
  simp only [Word.kk, BitVec.getLsbD_extractLsb', wordOfBytes_getLsbD]; grind

@[simp] theorem wordOfBytes_n : (wordOfBytes hi lo).n = lo.extractLsb' 0 4 := by
  refine BitVec.eq_of_getLsbD_eq fun i hlt => ?_
  simp only [Word.n, BitVec.getLsbD_extractLsb', wordOfBytes_getLsbD]; grind

end

/-- The number of low bytes that make a word of class `c` unknown. -/
def unknownLowBytes (c : Nibble) : Nat :=
  (List.range 256).countP fun l => decide (UnknownIn c (BitVec.ofNat 8 l) ((BitVec.ofNat 8 l).extractLsb' 0 4))

/-- All but two low bytes in the classes 0 and E, seven low nibbles of class 8, all but nine low bytes in class F. -/
theorem unknownLowBytes_eq : ∀ c, unknownLowBytes c =
    if c = 0x0 ∨ c = 0xE then 254 else if c = 0x8 then 112 else if c = 0xF then 247 else 0 := by decide +kernel

theorem countP_unknown (hi : Byte) :
    ((List.range 256).countP fun l =>
      let w := wordOfBytes hi (BitVec.ofNat 8 l)
      decide (decodeWord w = .unknownOpcode w)) = unknownLowBytes (hi.extractLsb' 4 4) := by
  simp only [unknownLowBytes, decodeWord_unknown_iff, wordOfBytes_opClass, wordOfBytes_kk, wordOfBytes_n]

/-- Settles O4: the table is read off the decoder class by class, and each of the sixteen high bytes of a class has as
many unknown low bytes as its class. -/
theorem unknownWordsAreThe13872OfTheTable : Obligations.UnknownWordsAreThe13872OfTheTable := by
  refine ⟨fun w => decodeWord_unknown_iff, ?_⟩
  simp only [countP_unknown, unknownLowBytes_eq]
  decide +kernel

/-- Settles O2: the decoder answers an instruction or the unknown opcode, and drops no bit of the first. -/
theorem everyWordIsAnInstructionOrUnknown : Obligations.EveryWordIsAnInstructionOrUnknown := fun w =>
  (decodeWord_cases w).imp_left fun ⟨i, hd⟩ => ⟨i, hd, encode_of_decodeWord hd⟩

/-- Settles O5: the decoder evaluates on each of the words. -/
theorem spelledWordsDecode : Obligations.SpelledWordsDecode := by
  unfold Obligations.SpelledWordsDecode
  decide

end Sys2Proof.Proofs.Encoding
end

section
/-! SUPPORT. Two instructions one after the other: a store and what is then fetched or loaded (R65, R144, R145, R235), a
call and its return (R81, R110, R112), a sprite drawn twice (R102). -/

namespace Sys2Proof.Proofs.Sequences

open Sys2Proof Sys2Proof.Machine Sys2Proof.Proofs.Control Sys2Proof.Proofs.IndexMemory Sys2Proof.Proofs.Display
  Sys2Proof.Proofs.Flags

/-! ## A store, and a fetch of what it wrote (R65, R235) -/

/-- A fetch at two bytes that exist reads them. -/
theorem fetch_of_pc {t : State} {a : Nat} (hpc : t.pc.toNat = a) (hin : a + 1 < Config.memSize) :
    t.fetch = .word (wordOfBytes (t.peek a) (t.peek (a + 1))) := by
  subst hpc
  rcases t.fetch_cases with ⟨-, h⟩ | ⟨hbeyond, -⟩
  · exact h
  · omega

/-- A fetch at two of the bytes a store wrote reads these two. -/
theorem fetch_of_stored {s t : State} {n j : Nat} {bs : List Byte} (hin : InRange s.i.toNat n) (hj : j + 1 < n)
    (bytes : ∀ j < n, t.peek (s.i.toNat + j) = bs.getD j 0) (hpc : t.pc.toNat = s.i.toNat + j) :
    t.fetch = .word (wordOfBytes (bs.getD j 0) (bs.getD (j + 1) 0)) := by
  rw [fetch_of_pc hpc (hin (j + 1) hj), bytes j (by omega), Nat.add_assoc, bytes (j + 1) hj]

/-- Settles O23: the bytes stored are registers in their order, or the digits. -/
theorem storedWordsAreFetched : Obligations.StoredWordsAreFetched := by
  refine fun s x hwf => ⟨fun hin => ?_, fun hin => ?_⟩
  · obtain ⟨t, hexec, bytes, -⟩ := exec_of_stored (exec_stRegs s x) (State.regsUpTo_length s x) hin hwf
    refine ⟨t, hexec, fun r r' hr hle hpc => ?_⟩
    rw [fetch_of_stored hin (by omega) bytes hpc, regsUpTo_getD_toNat s (by omega), hr, regsUpTo_getD_toNat s hle]
  · obtain ⟨t, hexec, bytes, -⟩ := exec_of_stored (exec_ldB s x) (bcd_length (s.reg x)) hin hwf
    refine ⟨t, hexec, fun hpc => ?_, fun hpc => ?_⟩
    · rw [fetch_of_stored (j := 0) hin (by decide) bytes hpc]; rfl
    · rw [fetch_of_stored (j := 1) hin (by decide) bytes hpc]; rfl

/-- Settles O49: the load reads the bytes at the same addresses, and the store put the registers there. -/
theorem storeThenLoadRegistersRestores : Obligations.StoreThenLoadRegistersRestores := by
  intro s x hin hwf
  obtain ⟨t, hexec, bytes, -, frame⟩ := exec_of_stored (exec_stRegs s x) (State.regsUpTo_length s x) hin hwf
  refine ⟨t, hexec, fun u hi hmem => ?_⟩
  have hbase : u.i = s.i := hi.trans (frame.1 .i (by decide))
  have hin_u : InRange u.i.toNat (x.toNat + 1) := hbase ▸ hin
  refine ⟨loaded u x, (exec_ldRegs u x).trans (withRange_of_inRange hin_u), fun r hr => ?_⟩
  calc (loaded u x).reg r
    _ = u.peek (u.i.toNat + r.toNat) := loaded_reg_of_le u hr
    _ = t.peek (s.i.toNat + r.toNat) := by rw [State.peek, hmem, hbase, State.peek]
    _ = (s.regsUpTo x).getD r.toNat 0 := bytes r.toNat (Nat.lt_succ_of_le hr)
    _ = s.reg r := regsUpTo_getD_toNat s hr

/-! ## A call and its return (R110, R112) -/

/-- Settles O30: the return pops the frame that the call pushed. -/
theorem callThenReturnResumes : Obligations.CallThenReturnResumes := by
  intro s nnn ign hroom
  let k : Fin 16 := ⟨s.sp.val, hroom⟩
  refine ⟨_, exec_call_of_room nnn (k := k) rfl, fun u hsp hframe => ?_⟩
  refine ⟨_, exec_ret_of_frame ign (k := k) (congrArg Fin.val hsp), ?_, rfl⟩
  exact (hframe k rfl).trans (Vector.getElem_set_self hroom)

/-! ## A sprite drawn twice (R102) -/

section
variable {s t : State} {x y x' y' n : Nibble}

/-- A second draw at the same place, of the same sprite, undoes the first. -/
theorem drawn_drawn (hx : t.reg x' = s.reg x) (hy : t.reg y' = s.reg y) (hfb : t.fb = (drawn s x y n).fb)
    (hi : t.i = s.i) (hmem : ∀ a, t.peek a = s.peek a) : (drawn t x' y' n).fb = s.fb := by
  refine Framebuffer.ext_get fun r c => ?_
  by_cases htarget : ∃ j < n.toNat, ∃ i < 8, r = spriteRow (s.reg y).toNat j ∧ c = spriteCol (s.reg x).toNat i
  · obtain ⟨j, hj, i, hlt, rfl, rfl⟩ := htarget
    have second := drawn_get_target t x' y' n hj hlt
    rw [hx, hy, hi, hmem, hfb, drawn_get_target s x y n hj hlt, Bool.xor_assoc, Bool.xor_self, Bool.xor_false] at second
    exact second
  · have other : ∀ j < n.toNat, ∀ i < 8, ¬(r = spriteRow (s.reg y).toNat j ∧ c = spriteCol (s.reg x).toNat i) :=
      fun j hj i hlt e => htarget ⟨j, hj, i, hlt, e⟩
    rw [drawn_get_other t x' y' n (by rwa [hx, hy]), hfb, drawn_get_other s x y n other]

/-- Over a clear area the first draw sets no flag. -/
theorem collision_of_clear (hclear : ∀ j < n.toNat, ∀ i < 8,
      s.fb.get (spriteRow (s.reg y).toNat j) (spriteCol (s.reg x).toNat i) = false) :
    (drawn s x y n).collision = false := by
  refine Bool.of_not_eq_true fun hset => ?_
  obtain ⟨j, hj, i, hlt, hpixel, -⟩ := (drawn_collision s x y n).1 hset
  exact absurd (hpixel.symm.trans (hclear j hj i hlt)) (by decide)

/-- The second then clears what the first set. -/
theorem collision_of_drawn_on_clear (hx : t.reg x' = s.reg x) (hy : t.reg y' = s.reg y)
    (hfb : t.fb = (drawn s x y n).fb) (hi : t.i = s.i) (hmem : ∀ a, t.peek a = s.peek a)
    (hclear : ∀ j < n.toNat, ∀ i < 8,
      s.fb.get (spriteRow (s.reg y).toNat j) (spriteCol (s.reg x).toNat i) = false) :
    (drawn t x' y' n).collision = true ↔ ∃ j < n.toNat, ∃ i < 8, (s.peek (s.i.toNat + j)).getLsbD i = true := by
  have drawn_bit (j : Nat) (hj : j < n.toNat) (i : Nat) (hlt : i < 8) :
      t.fb.get (spriteRow (s.reg y).toNat j) (spriteCol (s.reg x).toNat i) = (s.peek (s.i.toNat + j)).getLsbD i := by
    rw [hfb, drawn_get_target s x y n hj hlt, hclear j hj i hlt, Bool.false_xor]
  rw [drawn_collision, hx, hy, hi]
  constructor
  · rintro ⟨j, hj, i, hlt, -, hbit⟩
    rw [hmem] at hbit
    exact ⟨j, hj, i, hlt, hbit⟩
  · rintro ⟨j, hj, i, hlt, hbit⟩
    exact ⟨j, hj, i, hlt, (drawn_bit j hj i hlt).trans hbit, by rwa [hmem]⟩

end

/-- Settles O26: XOR with a bit twice is the pixel again, and once on a clear pixel is the bit. -/
theorem drawTwiceRestoresEveryPixel : Obligations.DrawTwiceRestoresEveryPixel := by
  intro s x y n hin
  have draws (t : State) (x' y' : Nibble) (hi : t.i = s.i) : exec (.drw x' y' n) t = .next (t.draw x' y' n) :=
    (exec_drw t x' y' n).trans (withRange_of_inRange (hi ▸ hin))
  refine ⟨_, draws s x y rfl, fun x' y' hx hy => ⟨_, draws _ x' y' rfl, ?_, fun hclear => ⟨?_, ?_⟩⟩⟩
  · exact drawn_drawn hx hy rfl rfl fun _ => rfl
  · rw [draw_reg_VF, collision_of_clear hclear]; rfl
  · rw [draw_reg_VF, flagByte_eq_one_iff]
    exact collision_of_drawn_on_clear hx hy rfl rfl (fun _ => rfl) hclear

end Sys2Proof.Proofs.Sequences
end

section
/-! SUPPORT. Several steps in a row: a self-jump (R111, R219), ticks between two timer moves (R236), and a block whose
load has failed (R231, E7). -/

namespace Sys2Proof.Proofs.Runs

open Sys2Proof Sys2Proof.Machine Sys2Proof.Proofs.Step Sys2Proof.Proofs.Control Sys2Proof.Proofs.Alu
  Sys2Proof.Proofs.TimersKeys Sys2Proof.Proofs.Turns Sys2Proof.Proofs.Loading

section
variable {s : State}

/-! ## The self-jump (R111) -/

/-- A jump to its own address writes `pc` with what it holds. -/
theorem instructionStep_of_selfJump (h : AtSelfJump s) : instructionStep s = .next s := by
  obtain ⟨-, hpc, nnn, hd, hself⟩ := h
  have stays : s.setPc (addrWord nnn) = s := by
    rw [BitVec.eq_of_toNat_eq ((addrWord_toNat nnn).trans hself)]
    rfl
  rw [(instructionStep_of_fits hpc).1 _ hd, exec_jp, stays]

/-! ## Ticks (R206, R236) -/

/-- As many ticks as `k` count the delay timer of a running block down by `k`. -/
theorem run_ticks (k : Nat) (ts : List Turn) (hrun : s.run = .running) :
    ∃ u : State, Host.Core.run Sys2Proof.core k (s.setSchedule (List.replicate k .tick ++ ts)) = .next u ∧
      u.schedule = ts ∧ u.dt.toNat = s.dt.toNat - k := by
  induction k generalizing s with
  | zero => exact ⟨s.setSchedule ts, rfl, rfl, rfl⟩
  | succ k ih =>
    let left := List.replicate k Turn.tick ++ ts
    let ticked := (s.setDt (countDown s.dt)).setSt (countDown s.st)
    have live : (s.setSchedule left).run.live = true := live_iff.2 (.inl hrun)
    have first : step (s.setSchedule (.tick :: left)) = .next (ticked.setSchedule left) :=
      (step_setSchedule s .tick left).trans (congrArg Host.Outcome.next (tick_of_live live))
    obtain ⟨u, hu, hts, hdt⟩ := ih (s := ticked) hrun
    refine ⟨u, (core_run_succ k first).trans hu, hts, ?_⟩
    rw [hdt, State.setSt_dt, State.setDt_dt, countDown_toNat]
    omega

/-! ## A block whose load has failed (R231; assumption 13) -/

/-- Idle with a failed load: Start is barred. -/
def Barred (s : State) : Prop := s.run = .idle ∧ s.loadFailed = true

/-- A failed load bars the block. -/
theorem barred_of_failed_load {r : LoadResult} (hidle : s.run = .idle) (hl : s.loaded = false)
    (hr : r = .readFailure ∨ ∃ rom, r = .bytes rom ∧ 3584 < rom.length) : Barred (loadRom r s) := by
  rcases hr with rfl | ⟨rom, rfl, hlen⟩
  · rw [loadRom_of_unreadable hidle hl]; exact ⟨hidle, rfl⟩
  · rw [loadRom_of_too_large hidle hl hlen]; exact ⟨hidle, rfl⟩

theorem barred_loadRom (r : LoadResult) (h : Barred s) : Barred (loadRom r s) := by
  obtain ⟨hidle, hfailed⟩ := h
  rcases loadRom_cases r s with ⟨-, e⟩ | ⟨-, -, ⟨-, e⟩ | ⟨rom, -, -, e⟩ | ⟨rom, -, -, e⟩⟩ <;> rw [e]
  · exact ⟨hidle, hfailed⟩
  · exact ⟨hidle, rfl⟩
  · exact ⟨hidle, rfl⟩
  · exact ⟨hidle, hfailed⟩

/-- No step of any agent lifts the bar. -/
theorem barred_of_step {t : State} (h : Barred s) (hstep : step s = .next t) : Barred t := by
  have resting : s.run.live = false := live_eq_false_iff.2 (.inl h.1)
  rcases step_cases hstep with ⟨hrun, -⟩ | ⟨ts, hrun, -⟩ | ⟨ts, -, -, rfl⟩ | ⟨ts, -, rfl⟩ | ⟨k, b, ts, -, rfl⟩ |
    ⟨r, ts, -, rfl⟩ | ⟨ts, -, rfl⟩ | ⟨ts, -, rfl⟩
  · exact nomatch h.1.symm.trans hrun
  · exact nomatch h.1.symm.trans hrun
  · exact h
  · rw [tick_of_not_live (s := s.setSchedule ts) resting]; exact h
  · rw [keyChange_of_no_press (s := s.setSchedule ts) k b fun x hx => nomatch h.1.symm.trans hx]; exact h
  · exact barred_loadRom (s := s.setSchedule ts) r h
  · rw [start_of_refused (s := s.setSchedule ts) (.inr (.inr h.2))]; exact h
  · rw [stop_of_not_live (s := s.setSchedule ts) resting]; exact h

theorem run_barred {ts : List Turn} (h : Barred s) (hts : s.schedule = ts) :
    ∃ t : State, Host.Core.run Sys2Proof.core ts.length s = .next t ∧ t.schedule = [] ∧ Barred t := by
  induction ts generalizing s with
  | nil => exact ⟨s, rfl, hts, h⟩
  | cons turn ts ih =>
    obtain ⟨t, hstep, hleft⟩ := exists_step_of_turn hts
    obtain ⟨u, hu, hend⟩ := ih (barred_of_step h hstep) hleft
    exact ⟨u, (core_run_succ ts.length hstep).trans hu, hend⟩

end

/-- Settles O22: each step is the jump, which leaves the state as it is. -/
theorem selfJumpLoopsWithNoChange : Obligations.SelfJumpLoopsWithNoChange := by
  intro s h hnil k
  have hstep : step s = .next s := by
    rw [step_of_engine h.1 (.inl ⟨hnil, rfl⟩), State.setSchedule_self s [] hnil, instructionStep_of_selfJump h]
  induction k with
  | zero => rfl
  | succ k ih => exact (core_run_succ k hstep).trans ih

/-- Settles O21: the first move sets the delay timer, the ticks count it down, the second move reads it. -/
theorem delayTimerReadsWhatTheTicksLeft : Obligations.DelayTimerReadsWhatTheTicksLeft := by
  intro s x y k ts hrun
  obtain ⟨u, hu, hts, hdt⟩ := run_ticks (s := (s.setDt (s.reg x)).advance) k ts hrun
  refine ⟨_, u, _, exec_ldDTVx, hu, hts, exec_ldVxDT, ?_⟩
  rw [write_reg_self, hdt, State.advance_dt, State.setDt_dt]

/-- Settles O58: the failed load bars the block, and the bar stands after every turn. -/
theorem aFailedLoadNeverStarts : Obligations.AFailedLoadNeverStarts := by
  intro s r ts hidle hl hturn hr
  have hstep : step s = .next (loadRom r (s.setSchedule ts)) := step_of_turn hturn
  have barred : Barred (loadRom r (s.setSchedule ts)) := barred_of_failed_load hidle hl hr
  obtain ⟨t, hfirst, hleft⟩ := exists_step_of_turn hturn
  obtain rfl := Host.Outcome.next.inj (hstep.symm.trans hfirst)
  obtain ⟨u, hu, hend, hrest⟩ := run_barred barred hleft
  exact ⟨u, (core_run_succ ts.length hstep).trans hu, hend, hrest.1⟩

end Sys2Proof.Proofs.Runs
end

section
/-! SUPPORT. Runs for ever and what fairness gives them (R212; assumptions 2 and 14). -/

namespace Sys2Proof.Proofs.Fairness

open Sys2Proof Sys2Proof.Machine Sys2Proof.Proofs.Step Sys2Proof.Proofs.Frames Sys2Proof.Proofs.Turns
  Sys2Proof.Proofs.Runs

/-- What changes while a block stays where it is: the timers and the keypad (and what is scheduled). -/
abbrev restPieces : List Piece := [.dt, .st, .keys, .schedule]

/-! ## Turns at which the block stays where it is -/

section
variable {s t : State} {turn : Turn} {x : Nibble}

/-- A quiet turn, or the engine's at a self-jump. -/
def AtRest (turn : Turn) (s : State) : Prop := Quiet turn s ∨ turn = .engine ∧ AtSelfJump s

theorem takeTurn_of_atRest (h : AtRest turn s) :
    takeTurn turn (s.setSchedule []) = .next (background turn (s.setSchedule [])) := by
  rcases h with hquiet | ⟨rfl, hjump⟩
  · exact takeTurn_of_quiet { hquiet with }
  · have jump : AtSelfJump (s.setSchedule []) := hjump
    exact (if_pos jump.1).trans (instructionStep_of_selfJump jump)

/-- A running engine rests at every turn but its own, and at that too where it is at a self-jump. -/
theorem atRest_of_running (hrun : s.run = .running) (hstop : turn ≠ .stop) (hengine : turn = .engine → AtSelfJump s) :
    AtRest turn s := by
  by_cases h : turn = .engine
  · exact .inr ⟨h, hengine h⟩
  · exact .inl {
      started := hrun ▸ RunState.noConfusion
      noStep := fun e => absurd e h
      noStop := fun e => absurd e hstop
      noPress := fun _ _ hwait => nomatch hrun.symm.trans hwait }

theorem atRest_of_waitKey (hrun : s.run = .waitKey x) (hstop : turn ≠ .stop)
    (hkey : ∀ k, turn = .keyChange k true → s.keyDown k = true) : AtRest turn s :=
  .inl {
    started := hrun ▸ RunState.noConfusion
    noStep := fun _ => hrun ▸ RunState.noConfusion
    noStop := fun e => absurd e hstop
    noPress := fun _ k _ => hkey k }

/-! ## What survives such a turn -/

theorem run_of_keeps (h : KeepsAllBut s t restPieces []) : t.run = s.run := h.1 .run (by decide)

theorem atSelfJump_of_keeps (h : KeepsAllBut s t restPieces []) (hjump : AtSelfJump s) : AtSelfJump t := by
  have hrun : t.run = s.run := run_of_keeps h
  have hpc : t.pc = s.pc := h.1 .pc (by decide)
  have hmem (a : Nat) : t.peek a = s.peek a := h.2.2 a (.inr (Nat.zero_le a))
  simpa only [AtSelfJump, hrun, hpc, hmem] using hjump

/-! ## The timers (R206) -/

/-- The higher of the two timers: 0 when both are. -/
def timers (s : State) : Nat := max s.dt.toNat s.st.toNat

theorem timers_eq_zero (h : timers s = 0) : s.dt = 0 ∧ s.st = 0 := by
  obtain ⟨hdt, hst⟩ := Nat.max_eq_zero_iff.1 h
  exact ⟨BitVec.eq_of_toNat_eq hdt, BitVec.eq_of_toNat_eq hst⟩

theorem timers_tick (hlive : s.run.live = true) : timers (tick s) = timers s - 1 := by
  rw [tick_of_live hlive]
  simp only [timers, State.setSt_dt, State.setDt_dt, State.setSt_st, countDown_toNat]
  omega

theorem timers_background_le : timers (background turn s) ≤ timers s := by
  cases turn with
  | tick =>
    cases hlive : s.run.live with
    | true => rw [background, timers_tick hlive]; exact Nat.sub_le ..
    | false => exact Nat.le_of_eq (congrArg timers (tick_of_not_live hlive))
  | _ => exact Nat.le_refl _

end

/-- What comes to hold has a first time at which it holds. -/
theorem exists_least {P : Nat → Prop} (h : ∃ k, P k) : ∃ m, P m ∧ ∀ j, j < m → ¬P j := by
  obtain ⟨k, hk⟩ := h
  induction k using Nat.strongRecOn with
  | ind k ih =>
    by_cases earlier : ∃ j, j < k ∧ P j
    · obtain ⟨j, hlt, hj⟩ := earlier
      exact ih j hlt hj
    · exact ⟨k, hk, fun j hlt hj => earlier ⟨j, hlt, hj⟩⟩

/-- What never grows, and again and again goes down by 1 until it is 0, is 0 from some time on. -/
theorem eventually_zero {f : Nat → Nat} {n : Nat} (hle : ∀ m, n ≤ m → f (m + 1) ≤ f m)
    (hdown : ∀ m, n ≤ m → ∃ k, m ≤ k ∧ f (k + 1) = f k - 1) : ∃ m, n ≤ m ∧ ∀ k, m ≤ k → f k = 0 := by
  have falls {m k : Nat} (hm : n ≤ m) (hk : m ≤ k) : f k ≤ f m := by
    induction hk with
    | refl => exact Nat.le_refl _
    | step hk ih => exact Nat.le_trans (hle _ (Nat.le_trans hm hk)) ih
  suffices ∀ v m, n ≤ m → f m ≤ v → ∃ m, n ≤ m ∧ ∀ k, m ≤ k → f k = 0 from this (f n) n (Nat.le_refl n) (Nat.le_refl _)
  intro v
  induction v with
  | zero => exact fun m hm hv => ⟨m, hm, fun k hk => Nat.le_zero.1 (Nat.le_trans (falls hm hk) hv)⟩
  | succ v ih =>
    intro m hm hv
    obtain ⟨k, hk, hstep⟩ := hdown m hm
    have : f k ≤ f m := falls hm hk
    exact ih (k + 1) (by omega) (by omega)

/-! ## Along a run -/

section
variable {state : Nat → State} {turn : Nat → Turn} (hrun : IsRun state turn)
include hrun

theorem takeTurn_of_isRun (n : Nat) : takeTurn (turn n) ((state n).setSchedule []) = .next (state (n + 1)) := hrun n

theorem state_succ_of_atRest {n : Nat} (h : AtRest (turn n) (state n)) :
    state (n + 1) = background (turn n) ((state n).setSchedule []) :=
  Host.Outcome.next.inj ((takeTurn_of_isRun hrun n).symm.trans (takeTurn_of_atRest h))

/-- While a property that the frame carries along makes every turn one of rest, it holds, and only the timers and the
keypad change. -/
theorem keeps_while_atRest {P : State → Prop} (hP : ∀ {s t : State}, KeepsAllBut s t restPieces [] → P s → P t)
    {n k : Nat} (hk : n ≤ k) (hn : P (state n))
    (rest : ∀ m, n ≤ m → m < k → P (state m) → AtRest (turn m) (state m)) :
    P (state k) ∧ KeepsAllBut (state n) (state k) restPieces [] := by
  induction hk with
  | refl => exact ⟨hn, Keeps.refl _ _ _ _ _⟩
  | @step k hk ih =>
    obtain ⟨hPk, hkeeps⟩ := ih fun m hm hlt => rest m hm (by omega)
    have one : KeepsAllBut (state k) (state (k + 1)) restPieces [] := by
      rw [state_succ_of_atRest hrun (rest k hk (by omega) hPk)]
      exact step_background_keeps
    exact ⟨hP one hPk, hkeeps.trans one⟩

/-- A live block at rest for ever lets the ticks bring its timers to 0. -/
theorem timers_run_out (hfair : TimerFair state turn) {n : Nat} (hlive : ∀ m, n ≤ m → (state m).run.live = true)
    (rest : ∀ m, n ≤ m → AtRest (turn m) (state m)) :
    ∃ m, n ≤ m ∧ ∀ k, m ≤ k → (state k).dt = 0 ∧ (state k).st = 0 := by
  have never_up : ∀ m, n ≤ m → timers (state (m + 1)) ≤ timers (state m) := fun m hm => by
    rw [state_succ_of_atRest hrun (rest m hm)]
    exact timers_background_le (s := (state m).setSchedule [])
  have down : ∀ m, n ≤ m → ∃ k, m ≤ k ∧ timers (state (k + 1)) = timers (state k) - 1 := fun m hm => by
    obtain ⟨k, hk, htick⟩ := hfair m fun j hj => hlive j (Nat.le_trans hm hj)
    have hnk : n ≤ k := Nat.le_trans hm hk
    refine ⟨k, hk, ?_⟩
    rw [state_succ_of_atRest hrun (rest k hnk), htick]
    exact timers_tick (s := (state k).setSchedule []) (hlive k hnk)
  obtain ⟨m, hm, hzero⟩ := eventually_zero (f := fun m => timers (state m)) never_up down
  exact ⟨m, hm, fun k hk => timers_eq_zero (hzero k hk)⟩

/-! ## The three parts of progress -/

/-- A running engine that is not stopped gets its turn: else it would run for ever without one, which fairness bars. -/
theorem engine_turn_of_running (hfair : EngineFair state turn) {n : Nat} (hstop : ∀ m, n ≤ m → turn m ≠ .stop)
    (hn : (state n).run = .running) : ∃ m, n ≤ m ∧ turn m = .engine := by
  refine Classical.byContradiction fun hnever => ?_
  have not_engine : ∀ m, n ≤ m → turn m ≠ .engine := fun m hm e => hnever ⟨m, hm, e⟩
  have runs : ∀ m, n ≤ m → (state m).run = .running := fun m hm =>
    (keeps_while_atRest hrun (P := (·.run = .running)) (fun h => (run_of_keeps h).trans) hm hn
      fun j hj _ hr => atRest_of_running hr (hstop j hj) fun e => absurd e (not_engine j hj)).1
  exact hnever (hfair n runs)

/-- On its turn a running engine takes the step that it takes with nothing scheduled. -/
theorem engine_step_of_running {n : Nat} (hr : (state n).run = .running) (hturn : turn n = .engine) :
    step ((state n).setSchedule []) = .next (state (n + 1)) := by
  have hengine : takeTurn .engine ((state n).setSchedule []) = .next (state (n + 1)) := hturn ▸ takeTurn_of_isRun hrun n
  have alone : step ((state n).setSchedule []) = instructionStep ((state n).setSchedule []) :=
    step_of_engine (s := (state n).setSchedule []) hr (.inl ⟨rfl, rfl⟩)
  exact alone.trans ((if_pos hr).symm.trans hengine)

theorem next_step_of_running (hfair : EngineFair state turn) {n : Nat} (hstop : ∀ m, n ≤ m → turn m ≠ .stop)
    (hn : (state n).run = .running) :
    ∃ m, n ≤ m ∧ KeepsAllBut (state n) (state m) restPieces [] ∧
      step ((state m).setSchedule []) = .next (state (m + 1)) := by
  obtain ⟨m, ⟨hm, hturn⟩, least⟩ := exists_least (engine_turn_of_running hrun hfair hstop hn)
  have before : ∀ j, n ≤ j → j < m → turn j ≠ .engine := fun j hj hlt e => least j hlt ⟨hj, e⟩
  obtain ⟨hr, hkeeps⟩ := keeps_while_atRest hrun (P := (·.run = .running)) (fun h => (run_of_keeps h).trans) hm hn
    fun j hj hlt hr => atRest_of_running hr (hstop j hj) fun e => absurd e (before j hj hlt)
  exact ⟨m, hm, hkeeps, engine_step_of_running hrun hr hturn⟩

theorem rests_at_selfJump {n : Nat} (hstop : ∀ m, n ≤ m → turn m ≠ .stop) (hn : AtSelfJump (state n)) {m : Nat}
    (hm : n ≤ m) : AtSelfJump (state m) ∧ KeepsAllBut (state n) (state m) restPieces [] :=
  keeps_while_atRest hrun atSelfJump_of_keeps hm hn fun j hj _ hjump =>
    atRest_of_running hjump.1 (hstop j hj) fun _ => hjump

theorem rests_in_waitKey {n : Nat} {x : Nibble} (hstop : ∀ m, n ≤ m → turn m ≠ .stop)
    (hn : (state n).run = .waitKey x)
    (hkey : ∀ m k, n ≤ m → turn m = .keyChange k true → (state m).keyDown k = true) {m : Nat} (hm : n ≤ m) :
    (state m).run = .waitKey x ∧ KeepsAllBut (state n) (state m) restPieces [] :=
  keeps_while_atRest hrun (P := (·.run = .waitKey x)) (fun h => (run_of_keeps h).trans) hm hn fun j hj _ hr =>
    atRest_of_waitKey hr (hstop j hj) fun k => hkey j k hj

end

/-- Settles O59: fairness gives a running engine its turn, and until it, as at a self-jump and in a wait, every turn is
one of rest, through which the ticks count the timers down. -/
theorem fairRunsMakeProgress : Obligations.FairRunsMakeProgress := by
  intro state turn ⟨hrun, hengine, htimer⟩ n hstop
  refine ⟨next_step_of_running hrun hengine hstop, fun hn => ?_, fun x hn hkey => ?_⟩
  · have jumps {m : Nat} (hm : n ≤ m) := rests_at_selfJump hrun hstop hn hm
    exact ⟨fun m hm => jumps hm, timers_run_out hrun htimer (fun m hm => live_iff.2 (.inl (jumps hm).1.1)) fun m hm =>
      atRest_of_running (jumps hm).1.1 (hstop m hm) fun _ => (jumps hm).1⟩
  · have waits {m : Nat} (hm : n ≤ m) := rests_in_waitKey hrun hstop hn hkey hm
    exact ⟨fun m hm => (waits hm).2, timers_run_out hrun htimer (fun m hm => live_iff.2 (.inr ⟨x, (waits hm).1⟩))
      fun m hm => atRest_of_waitKey (waits hm).1 (hstop m hm) fun k => hkey m k hm⟩

/-! ## A fair run with a given beginning -/

/-- The state a turn leads to. -/
def afterTurn (turn : Turn) (s : State) : State :=
  match takeTurn turn s with
  | .next t => t
  | .fault _ => s
  | .refused _ => s

/-- Every turn completes. -/
theorem takeTurn_eq (turn : Turn) (s : State) : takeTurn turn s = .next (afterTurn turn s) := by
  obtain ⟨t, h, -⟩ := takeTurn_unscheduled turn s
  rw [afterTurn, h]

/-- The run from `s` in which the agents take these turns. -/
def follow (s : State) (turn : Nat → Turn) : Nat → State
  | 0 => s
  | n + 1 => afterTurn (turn n) ((follow s turn n).setSchedule [])

theorem follow_isRun (s : State) (turn : Nat → Turn) : IsRun (follow s turn) turn := fun _ => takeTurn_eq _ _

/-- The given turns, and after them the engine and the timer driver by turns. -/
def thenAlternate (ts : List Turn) (n : Nat) : Turn := ts.getD n (if n % 2 = 0 then .engine else .tick)

theorem thenAlternate_of_length_le {ts : List Turn} {n : Nat} (h : ts.length ≤ n) :
    thenAlternate ts n = if n % 2 = 0 then .engine else .tick := by
  rw [thenAlternate, List.getD_eq_getElem?_getD, List.getElem?_eq_none h, Option.getD_none]

theorem thenAlternate_fair (s : State) (ts : List Turn) :
    FairRun (follow s (thenAlternate ts)) (thenAlternate ts) := by
  refine ⟨follow_isRun s _, fun n _ => ⟨2 * (n + ts.length), by omega, ?_⟩,
    fun n _ => ⟨2 * (n + ts.length) + 1, by omega, ?_⟩⟩
  · rw [thenAlternate_of_length_le (by omega), if_pos (by omega)]
  · rw [thenAlternate_of_length_le (by omega), if_neg (by omega)]

/-! ## The first steps of a run are the machine's -/

/-- One step of a run, with other turns scheduled after it. -/
theorem step_of_isRun {state : Nat → State} {turn : Nat → Turn} (hrun : IsRun state turn) (n : Nat) (ts : List Turn) :
    step ((state n).setSchedule (turn n :: ts)) = .next ((state (n + 1)).setSchedule ts) := by
  obtain ⟨t, -, hstep⟩ := step_scheduled (turn n) (state n)
  have last : t.setSchedule [] = state (n + 1) := Host.Outcome.next.inj ((hstep []).symm.trans (hrun n))
  rw [hstep ts, ← last]
  rfl

theorem run_of_isRun (k : Nat) (ts : List Turn) {state : Nat → State} {turn : Nat → Turn} (hrun : IsRun state turn) :
    Host.Core.run Sys2Proof.core k ((state 0).setSchedule ((List.range k).map turn ++ ts)) =
      .next ((state k).setSchedule ts) := by
  induction k generalizing state turn with
  | zero => rfl
  | succ k ih =>
    have later : IsRun (fun n => state (n + 1)) (fun n => turn (n + 1)) := fun n => hrun (n + 1)
    have turns : (List.range (k + 1)).map turn ++ ts =
        turn 0 :: ((List.range k).map (fun n => turn (n + 1)) ++ ts) := by
      rw [List.range_succ_eq_map, List.map_cons, List.map_map]
      rfl
    rw [turns]
    exact (core_run_succ k (step_of_isRun hrun 0 _)).trans (ih later)

/-- Settles O60: the turns are followed by turns of the engine and the timer driver; and a run takes the machine's
steps, which do not look at the turns to come. -/
theorem everyScheduleBeginsAFairRun : Obligations.EveryScheduleBeginsAFairRun := by
  refine ⟨fun s ts => ⟨_, thenAlternate ts, thenAlternate_fair s ts, rfl, fun k h => ?_⟩,
    fun state turn hrun k ts => run_of_isRun k ts hrun⟩
  rw [thenAlternate, ← List.getElem_eq_getD]

end Sys2Proof.Proofs.Fairness
end
